-- ==== Sys2Proof/Word.lean ====
section
/-! DEFINITION. The block's word and byte types, and the two fixed-length byte strings it works on. -/

namespace Sys2Proof

/-- An unsigned 8-bit value (00_scope.md R12). -/
abbrev Byte := BitVec 8

/-- The value of a 32-bit register; bit 0 is the least significant (R13, R25). -/
abbrev Word := BitVec 32

/-- A 4-byte string, `b0` first: one register word of a group (R56), one AES column (R107), one key
word (R116). -/
structure Quad where
  b0 : Byte
  b1 : Byte
  b2 : Byte
  b3 : Byte
  deriving DecidableEq, Repr, Inhabited

/-- A 16-byte string, byte `4w+j` being byte `j` of `q<w>` (R12, R56). -/
structure Block where
  q0 : Quad
  q1 : Quad
  q2 : Quad
  q3 : Quad
  deriving DecidableEq, Repr, Inhabited

end Sys2Proof
end

