-- ==== Sys2Proof/Config.lean ====
section
/-! DEFINITION. The implementation parameters of 00_scope.md R10, and the values the spec leaves free. -/

namespace Sys2Proof.Config

/-- `MBUF_BYTES` (R10, D4). -/
def mbufBytes : Nat := 256

/-- `WINDOW_BYTES` (R10, D1). -/
def windowBytes : Nat := 512

/-- `BLOCK_BYTES` (R10): the length of a block, of a key and of a tag. -/
def blockBytes : Nat := 16

/-- `ID_VALUE` (R10, R30, D20). -/
def idValue : Word := 0x4C434201#32

/-- Which 512-byte slot of the platform's address space holds the window: OPEN (R10, U4). -/
opaque lcbSlot : Nat

/-- `LCB_BASE`, aligned to 512 (R10, R59). -/
def lcbBase : Nat := windowBytes * lcbSlot

/-- `LCB_IRQ_LINE`: the platform's line that the IRQ output drives: OPEN (R10, R156, U5). -/
opaque lcbIrqLine : Nat

/-- FREE VALUE: what a host read gives for the unwritten MBUF byte `k` at draw `d` (R169, U1; log 1). -/
opaque unwrittenByte (d k : Nat) : Byte

/-- FREE VALUE: the tag of a CMAC or MIC_DATA whose message has an unwritten byte, at draw `d`
(R169, U1; log 2). -/
opaque freeTag (d : Nat) : Block

/-- FREE VALUE: MBUF byte `k` after a CTR_XOR whose message has an unwritten byte, at draw `d`
(R169, U1; log 3). -/
opaque freeCipherByte (d k : Nat) : Byte

end Sys2Proof.Config
end

