-- ==== Sys2Proof/Machine/Bytes.lean ====
section
/-! DEFINITION. Byte order: packing byte strings into words (20_memory.md R56), `le32` (R16), byte
strings of a block (R12), and bytewise exclusive-or (R15). -/

namespace Sys2Proof

/-- The four bytes in order, first byte first. -/
def Quad.toList (q : Quad) : List Byte := [q.b0, q.b1, q.b2, q.b3]

/-- `word(w) = S[4w] | S[4w+1] << 8 | S[4w+2] << 16 | S[4w+3] << 24` (R56). -/
def Quad.toWord (q : Quad) : Word :=
  q.b0.setWidth 32 ||| q.b1.setWidth 32 <<< 8 ||| q.b2.setWidth 32 <<< 16 ||| q.b3.setWidth 32 <<< 24

/-- `S[4w+j] = word(w)[8j+7:8j]` (R56). On a number this is `le32` (R16). -/
def Quad.ofWord (v : Word) : Quad :=
  ⟨v.extractLsb' 0 8, v.extractLsb' 8 8, v.extractLsb' 16 8, v.extractLsb' 24 8⟩

/-- `le32(v)`: the least significant byte first (R16). -/
def le32 (v : Word) : Quad := Quad.ofWord v

/-- Bytewise exclusive-or (R15). -/
def Quad.xor (p q : Quad) : Quad := ⟨p.b0 ^^^ q.b0, p.b1 ^^^ q.b1, p.b2 ^^^ q.b2, p.b3 ^^^ q.b3⟩

/-- The same function on each of the four bytes. -/
def Quad.map (f : Byte → Byte) (q : Quad) : Quad := ⟨f q.b0, f q.b1, f q.b2, f q.b3⟩

/-- Bytewise exclusive-or (R15). -/
def Block.xor (x y : Block) : Block := ⟨x.q0.xor y.q0, x.q1.xor y.q1, x.q2.xor y.q2, x.q3.xor y.q3⟩

/-- The same function on each of the sixteen bytes. -/
def Block.map (f : Byte → Byte) (x : Block) : Block := ⟨x.q0.map f, x.q1.map f, x.q2.map f, x.q3.map f⟩

/-- Sixteen zero bytes. -/
def Block.zero : Block := ⟨⟨0, 0, 0, 0⟩, ⟨0, 0, 0, 0⟩, ⟨0, 0, 0, 0⟩, ⟨0, 0, 0, 0⟩⟩

/-- The sixteen bytes in order, first byte first (R12). -/
def Block.toList (x : Block) : List Byte := x.q0.toList ++ x.q1.toList ++ x.q2.toList ++ x.q3.toList

/-- The block of the first sixteen bytes of a string; the callers give sixteen. -/
def Block.ofList (l : List Byte) : Block :=
  let b (k : Nat) : Byte := l.getD k 0
  ⟨⟨b 0, b 1, b 2, b 3⟩, ⟨b 4, b 5, b 6, b 7⟩, ⟨b 8, b 9, b 10, b 11⟩, ⟨b 12, b 13, b 14, b 15⟩⟩

/-- Word `w` of a 16-byte group, as its four bytes (R56). -/
def Block.quad (x : Block) (w : Fin 4) : Quad :=
  match w with
  | 0 => x.q0
  | 1 => x.q1
  | 2 => x.q2
  | 3 => x.q3

/-- Replace word `w` of a 16-byte group, as its four bytes (R62). -/
def Block.setQuad (x : Block) (w : Fin 4) (q : Quad) : Block :=
  match w with
  | 0 => { x with q0 := q }
  | 1 => { x with q1 := q }
  | 2 => { x with q2 := q }
  | 3 => { x with q3 := q }

/-- A single bit as a register bit or as the byte 0x00 or 0x01 (R82, R135). -/
def bit {n : Nat} (b : Bool) : BitVec n := if b then BitVec.ofNat n 1 else 0

end Sys2Proof
end

