-- ==== Sys2Proof/Syntax.lean ====
section
/-! DEFINITION. The commands, the registers a host can name, the inputs of the block, and the host
scripts of 30_encoding.md section 4. -/

namespace Sys2Proof

/-- The six commands of R83. A command word has no operand field (R81). -/
inductive Instr where
  | nop
  | aesEnc
  | aesDec
  | cmac
  | micData
  | ctrXor
  deriving DecidableEq, Repr

/-- The registers of the map R25. `key w`, `din w`, `dout w` and `mbuf w` are word `w` of their group. -/
inductive Reg where
  | id
  | ctrl
  | cmd
  | status
  | len
  | frame
  | devaddr
  | fcnt
  | mic
  | key (w : Fin 4)
  | din (w : Fin 4)
  | dout (w : Fin 4)
  | mbuf (w : Fin 64)
  deriving DecidableEq, Repr

/-- One bus access by any master, at a host byte address and of any width in bytes (R17, R60). -/
inductive HostAccess where
  | read (addr bytes : Nat)
  | write (addr bytes : Nat) (data : Word)
  deriving DecidableEq, Repr

/-- What the scheduler may pick for a step (R102, R168; log 7). -/
inductive Input where
  /-- A bus master's access reaches the block. -/
  | access (a : HostAccess)
  /-- The engine's turn: the completion where BUSY = 1 (R95). -/
  | engine
  /-- The reset input is asserted, or power comes back (R166, R168). -/
  | reset
  deriving DecidableEq, Repr

/-- The statements of a host script (R88). `halt` is the `HALT` of 95_test_vectors.md P3. -/
inductive Stmt where
  | wr (reg : Reg) (value : Word)
  | rd (reg : Reg)
  | poll (reg : Reg) (mask value : Word)
  | bne (reg : Reg) (mask value : Word) (target : String)
  | label (name : String)
  | halt
  deriving DecidableEq, Repr

/-- The bus transactions a script encodes to, by window offset: `W off data` and `R off` (R89). -/
inductive Transaction where
  | w (off : Nat) (data : Word)
  | r (off : Nat)
  deriving DecidableEq, Repr

end Sys2Proof
end

