-- ==== Sys2Proof/Decode.lean ====
section
/-! DEFINITION. The command word (30_encoding.md R78 to R87): its decoder, its encoder, and the register
map's offsets (10_state.md R25). -/

namespace Sys2Proof

/-- Why bytes are no command. -/
inductive DecodeReject where
  /-- Fewer than the four bytes of a command word (R78). -/
  | truncated
  /-- OP in 0x6 to 0xF is reserved (R84). -/
  | reservedOp (op : BitVec 4)
  deriving DecidableEq, Repr

/-- Field OP, bits [3:0] of a command word; bits [31:4] are ignored (R79, R80). -/
def opField (v : Word) : BitVec 4 := v.extractLsb' 0 4

/-- The opcode map R83; `none` is "reserved". -/
def decodeOp (op : BitVec 4) : Option Instr :=
  match op.toNat with
  | 0 => some .nop
  | 1 => some .aesEnc
  | 2 => some .aesDec
  | 3 => some .cmac
  | 4 => some .micData
  | 5 => some .ctrXor
  | _ => none

/-- `decode(v) = command(v[3:0])`, total on every word (R85). -/
def decodeWord (v : Word) : Option Instr := decodeOp (opField v)

/-- The decoder on bytes, a word's least significant byte first (R56; log 12): the command, and the
bytes after it. -/
def decode : List Byte → Except DecodeReject (Instr × List Byte)
  | b0 :: b1 :: b2 :: b3 :: rest =>
    match decodeWord (Quad.toWord ⟨b0, b1, b2, b3⟩) with
    | some i => .ok (i, rest)
    | none => .error (.reservedOp (opField (Quad.toWord ⟨b0, b1, b2, b3⟩)))
  | _ => .error .truncated

/-- The OP value of a command (R83). -/
def Instr.op : Instr → BitVec 4
  | .nop => 0#4
  | .aesEnc => 1#4
  | .aesDec => 2#4
  | .cmac => 3#4
  | .micData => 4#4
  | .ctrXor => 5#4

/-- The command word of a command, reserved bits zero as software should write them (R80, R86). -/
def encode (i : Instr) : Word := i.op.setWidth 32

/-- The command word's bytes, least significant first. -/
def encodeBytes (i : Instr) : List Byte := (Quad.ofWord (encode i)).toList

/-- The `n` lowest bytes of a number, least significant first. -/
def bytesOfNat : Nat → Nat → List Byte
  | 0, _ => []
  | n + 1, w => BitVec.ofNat 8 w :: bytesOfNat n (w / 256)

/-- The command the decoder reads from a row's bits `w`, the bits at `nbits` and above zero. -/
def decodeTableWord (nbits w : Nat) : Option Instr :=
  match decode (bytesOfNat 4 (w % 2 ^ nbits)) with
  | .ok (i, _) => some i
  | .error _ => none

/-- A command's mnemonic (R83). -/
def Instr.mnemonic : Instr → String
  | .nop => "NOP"
  | .aesEnc => "AES_ENC"
  | .aesDec => "AES_DEC"
  | .cmac => "CMAC"
  | .micData => "MIC_DATA"
  | .ctrXor => "CTR_XOR"

/-- The letters of a name, in upper case. -/
def upperChars (name : String) : List Char := name.toList.map Char.toUpper

/-- The command a script's mnemonic names, whatever the case of its letters (R91). -/
def Instr.ofMnemonic (name : String) : Option Instr :=
  [Instr.nop, .aesEnc, .aesDec, .cmac, .micData, .ctrXor].find?
    fun i => upperChars name == i.mnemonic.toList

/-- The window offset of a register (R25). -/
def Reg.offset : Reg → Nat
  | .id => 0x000
  | .ctrl => 0x004
  | .cmd => 0x008
  | .status => 0x00C
  | .len => 0x010
  | .frame => 0x014
  | .devaddr => 0x018
  | .fcnt => 0x01C
  | .mic => 0x020
  | .key w => 0x030 + 4 * w.val
  | .din w => 0x040 + 4 * w.val
  | .dout w => 0x050 + 4 * w.val
  | .mbuf w => 0x100 + 4 * w.val

/-- The register at an aligned offset of the window; `none` where the offset is reserved (R25, R29). -/
def regAt (o : Nat) : Option Reg :=
  if o = 0x000 then some .id
  else if o = 0x004 then some .ctrl
  else if o = 0x008 then some .cmd
  else if o = 0x00C then some .status
  else if o = 0x010 then some .len
  else if o = 0x014 then some .frame
  else if o = 0x018 then some .devaddr
  else if o = 0x01C then some .fcnt
  else if o = 0x020 then some .mic
  else if o < 0x030 then none
  else if o < 0x040 then some (.key (Fin.ofNat 4 ((o - 0x030) / 4)))
  else if o < 0x050 then some (.din (Fin.ofNat 4 ((o - 0x040) / 4)))
  else if o < 0x060 then some (.dout (Fin.ofNat 4 ((o - 0x050) / 4)))
  else if o < 0x100 then none
  else if o < 0x200 then some (.mbuf (Fin.ofNat 64 ((o - 0x100) / 4)))
  else none

/-- The operand registers, whose writes are refused while BUSY = 1 (R27). -/
def Reg.isOperand : Reg → Bool
  | .cmd | .len | .frame | .devaddr | .fcnt | .key _ | .din _ | .mbuf _ => true
  | .id | .ctrl | .status | .mic | .dout _ => false

/-- The commands whose acceptance checks LEN (R94). -/
def Instr.checksLen : Instr → Bool
  | .cmac | .micData | .ctrXor => true
  | .nop | .aesEnc | .aesDec => false

end Sys2Proof
end

