-- ==== Sys2Proof/Machine/State.lean ====
section
/-! DEFINITION. The block's state (10_state.md R53), its reset state (70_reset_and_hazards.md R168), and
the reasons a step can stop. -/

namespace Sys2Proof.Machine

/-- The message buffer: cells (index, byte) for the written bytes, the indexes strictly rising and below
256. An unlisted byte is "unwritten" and has no value (R44, R169). -/
abbrev Memory := List Host.Cell

/-- The bus response of the last host access (R60, R61; log 8). -/
inductive Reply where
  /-- No access has been taken since reset. -/
  | noAccess
  /-- A legal read returned this word. -/
  | data (v : Word)
  /-- A legal write was taken, refused or ignored; all three end on the bus without an error. -/
  | written
  /-- The error response to an access that is not an aligned 32-bit one (R60). -/
  | busError (addr : Nat)
  /-- The address is outside the window: the block does not answer (R59). -/
  | notSelected
  deriving DecidableEq, Repr

/-- The state of one block: the sixteen components of R53, in its order, and three of the model's own. -/
structure State where
  /-- CTRL.IE (R31). -/
  ie : Bool
  /-- LASTOP, the OP of the last CMD write taken while IDLE (R50). -/
  lastop : BitVec 4
  /-- STATUS.BUSY, the engine's phase (R49). -/
  busy : Bool
  /-- STATUS.DONE (R45). -/
  done : Bool
  /-- STATUS.ERR (R45). -/
  err : Bool
  /-- STATUS.ERRCODE (R35). -/
  errcode : BitVec 4
  /-- LEN (R36). -/
  len : BitVec 9
  /-- FRAME.DIR (R37). -/
  dir : Bool
  /-- FRAME.B0LEN (R37). -/
  b0len : Byte
  /-- DEVADDR (R38). -/
  devaddr : Word
  /-- FCNT (R39). -/
  fcnt : Word
  /-- MIC (R40). -/
  mic : Word
  /-- KEY0 to KEY3 (R41). -/
  key : Block
  /-- DIN0 to DIN3 (R42). -/
  din : Block
  /-- DOUT0 to DOUT3 (R43). -/
  dout : Block
  /-- MBUF0 to MBUF63 (R44). -/
  mbuf : Memory
  /-- The model's own: which draw of the free values comes next (log 4). -/
  draws : Nat
  /-- The model's own: the schedule, the inputs still to come (log 7). -/
  inputs : List Input
  /-- The model's own: the bus response of the last host access (log 8). -/
  reply : Reply
  deriving DecidableEq, Repr

/-- Why the machine stops. -/
inductive Fault where
  /-- Raised by the engine's turn where BUSY = 1 and LASTOP is reserved. The spec gives that state no
  step; no command starts with a reserved OP (R94), so no run reaches it. Safe (log 9). -/
  | reservedOpStarted (op : BitVec 4)
  deriving DecidableEq, Repr

/-- Why an instruction has no meaning here. -/
inductive Refusal where
  /-- Raised by an arm of `exec` whose instruction has no meaning yet. Safe. No arm raises it. -/
  | notModelled (mnemonic : String)
  deriving DecidableEq, Repr

/-- The block right after reset (R53, R168): every register zero, the engine IDLE, every MBUF byte
unwritten (R169). The last three fields are the model's own (logs 4, 7, 8). -/
def State.reset : State where
  ie := false
  lastop := 0
  busy := false
  done := false
  err := false
  errcode := 0
  len := 0
  dir := false
  b0len := 0
  devaddr := 0
  fcnt := 0
  mic := 0
  key := Block.zero
  din := Block.zero
  dout := Block.zero
  mbuf := []
  draws := 0
  inputs := []
  reply := .noAccess

end Sys2Proof.Machine
end

