-- ==== Sys2Proof/Machine/Flags.lean ====
section
/-! DEFINITION. The block's flags BUSY, DONE and ERR (10_state.md R45), the STATUS word, the error codes
(R35) and the IRQ output (R46). There is no arithmetic condition code. -/

namespace Sys2Proof.Machine

/-- ERRCODE NONE (R35). -/
def errNone : BitVec 4 := 0#4

/-- ERRCODE BAD_OP (R35). -/
def errBadOp : BitVec 4 := 1#4

/-- ERRCODE BAD_LEN (R35). -/
def errBadLen : BitVec 4 := 2#4

/-- ERRCODE BUSY_WRITE (R35). -/
def errBusyWrite : BitVec 4 := 3#4

/-- `STATUS : BUSY | DONE<<1 | ERR<<2 | ERRCODE<<8`, reserved bits zero (R33, R61). -/
def State.statusWord (s : State) : Word :=
  bit s.busy ||| bit s.done <<< 1 ||| bit s.err <<< 2 ||| s.errcode.setWidth 32 <<< 8

/-- DONE after a STATUS write of `v`: a 1 in bit 1 clears it (R34). -/
def doneAfterStatusWrite (v : Word) (done : Bool) : Bool := if v.getLsbD 1 then false else done

/-- ERR after a STATUS write of `v`: a 1 in bit 2 clears it (R34). -/
def errAfterStatusWrite (v : Word) (err : Bool) : Bool := if v.getLsbD 2 then false else err

/-- ERRCODE after a STATUS write of `v`: cleared with ERR (R34). -/
def errcodeAfterStatusWrite (v : Word) (code : BitVec 4) : BitVec 4 :=
  if v.getLsbD 2 then errNone else code

/-- A STATUS write: DONE and ERR are write-1-to-clear, every other bit of `v` is ignored (R34). -/
def State.writeStatus (s : State) (v : Word) : State :=
  { s with
    done := doneAfterStatusWrite v s.done
    err := errAfterStatusWrite v s.err
    errcode := errcodeAfterStatusWrite v s.errcode }

/-- The flags at the acceptance of a CMD write: DONE, ERR and ERRCODE cleared (R93). -/
def State.clearFlags (s : State) : State := { s with done := false, err := false, errcode := errNone }

/-- The flags at a completion: BUSY 0 and DONE 1, ERR and ERRCODE as they are (R95). The draw of the free
values moves on (log 4). -/
def State.complete (s : State) : State := { s with busy := false, done := true, draws := s.draws + 1 }

/-- The level of the IRQ output, `IE & DONE` (R46). -/
def State.irq (s : State) : Bool := s.ie && s.done

/-- The level the block drives on a line of the platform: IRQ on `LCB_IRQ_LINE`, nothing elsewhere
(R46, R156). -/
def State.irqOn (s : State) (line : Nat) : Bool := line == Config.lcbIrqLine && s.irq

end Sys2Proof.Machine
end

