-- ==== Sys2Proof/WellFormed.lean ====
section
/-! DEFINITION. What counts as a well-formed command, command word, host access and host script. -/

namespace Sys2Proof

/-- Every command is well formed: it has no operand that could be out of range (R81). -/
def Instr.wf : Instr → Bool
  | .nop | .aesEnc | .aesDec | .cmac | .micData | .ctrXor => true

/-- A command word as software should write it: OP is assigned and the reserved bits are zero (R80, R84). -/
def commandWordWf (v : Word) : Bool := (decodeWord v).isSome && v.toNat < 16

/-- The width in bytes of an access. -/
def HostAccess.width : HostAccess → Nat
  | .read _ n => n
  | .write _ n _ => n

/-- The host byte address of an access. -/
def HostAccess.addr : HostAccess → Nat
  | .read a _ => a
  | .write a _ _ => a

/-- A legal access: four bytes wide, at an address that is a multiple of four (R60; LCB_BASE is a
multiple of four, so its offset is one too). -/
def HostAccess.wf (a : HostAccess) : Bool := a.width == 4 && a.addr % 4 == 0

/-- The bytes of an `LDBUF` fit the message buffer (R90). -/
def ldBufWf (bytes : List Byte) : Bool := bytes.length ≤ Config.mbufBytes

/-- Every `BNE` of a script names a label of the script (R88). -/
def scriptWf (prog : List Stmt) : Bool :=
  prog.all fun st =>
    match st with
    | .bne _ _ _ t => prog.contains (.label t)
    | .wr _ _ | .rd _ | .poll _ _ _ | .label _ | .halt => true

end Sys2Proof
end

