-- ==== Sys2Proof/Machine/Ops.lean ====
section
/-! DEFINITION. The named operations: the message buffer, the error operations, the command lifecycle's
acceptance, register reads and writes, bus accesses, and reset. -/

namespace Sys2Proof.Machine

/-! ## The message buffer -/

/-- Byte `k`; `none` where it is unwritten (R44, R169). -/
def Memory.read : Memory → Nat → Option Byte
  | [], _ => none
  | c :: m, k => if c.1 = k then some c.2 else Memory.read m k

/-- Store one byte, keeping the indexes strictly rising. -/
def Memory.write : Memory → Nat → Byte → Memory
  | [], k, b => [(k, b)]
  | c :: m, k, b =>
    if k < c.1 then (k, b) :: c :: m
    else if k = c.1 then (k, b) :: m
    else c :: Memory.write m k b

/-- Store consecutive bytes from index `k` up. -/
def Memory.writeBytes (m : Memory) (k : Nat) : List Byte → Memory
  | [] => m
  | b :: bs => (m.write k b).writeBytes (k + 1) bs

/-- `MBUF[0..n)`; `none` where one of those bytes is unwritten (R44, R169). -/
def Memory.slice (m : Memory) : Nat → Option (List Byte)
  | 0 => some []
  | n + 1 =>
    match m.slice n, m.read n with
    | some l, some b => some (l ++ [b])
    | _, _ => none

/-- Every index lies above `lo`, in strictly rising order, and below 256. -/
def Memory.risesAbove : Nat → Memory → Bool
  | _, [] => true
  | lo, c :: m => decide (lo ≤ c.1) && decide (c.1 < Config.mbufBytes) && Memory.risesAbove (c.1 + 1) m

/-- The canonical form: indexes strictly rising and below `MBUF_BYTES` (R44). -/
def Memory.wf (m : Memory) : Bool := Memory.risesAbove 0 m

/-- The value a host read gives for byte `k`: the byte, or the free value where it is unwritten
(R61, R169; log 1). -/
def State.mbufByte (s : State) (k : Nat) : Byte :=
  match s.mbuf.read k with
  | some b => b
  | none => Config.unwrittenByte s.draws k

/-- Word `w` of MBUF as a host read gives it (R56, R61). -/
def State.mbufWord (s : State) (w : Fin 64) : Word :=
  Quad.toWord ⟨s.mbufByte (4 * w.val), s.mbufByte (4 * w.val + 1), s.mbufByte (4 * w.val + 2),
    s.mbufByte (4 * w.val + 3)⟩

/-! ## Errors -/

/-- `raise CmdError(c)`: DONE, ERR and ERRCODE are set, nothing else changes (R94, R151). The block has no
other exception entry, and no return (R150, R158, R159). -/
def State.raiseCmdError (s : State) (code : BitVec 4) : State :=
  { s with done := true, err := true, errcode := code }

/-- A refused operand write: ERR and ERRCODE BUSY_WRITE are set, DONE is not (R27, R62, R151). -/
def State.refuseWrite (s : State) : State := { s with err := true, errcode := errBusyWrite }

/-- `raise BusError(addr)`: the error response, with no other change (R60, R152; log 5). -/
def State.raiseBusError (s : State) (addr : Nat) : State := { s with reply := .busError addr }

/-! ## The command lifecycle, up to the start -/

/-- A started command: the engine's phase becomes BUSY (R94). -/
def State.start (s : State) : State := { s with busy := true }

/-- `R(LEN) > MBUF_BYTES` (R94). -/
def State.lenTooLong (s : State) : Bool := decide (Config.mbufBytes < s.len.toNat)

/-- Validation: BAD_OP first, then BAD_LEN for the commands that check LEN, else the start (R94). -/
def State.validate (s : State) : State :=
  match decodeOp s.lastop with
  | none => s.raiseCmdError errBadOp
  | some i =>
    if i.checksLen && s.lenTooLong then s.raiseCmdError errBadLen
    else s.start

/-- A CMD write of `v` while IDLE: LASTOP takes `v[3:0]`, the flags are cleared, and the command is
validated, all in one step (R93). -/
def State.acceptCommand (s : State) (v : Word) : State :=
  State.validate (State.clearFlags { s with lastop := opField v })

/-! ## Register reads and writes -/

/-- The value a legal host read of a register returns (R61). KEY reads zero (R41). -/
def State.readReg (s : State) : Reg → Word
  | .id => Config.idValue
  | .ctrl => bit s.ie
  | .cmd => s.lastop.setWidth 32
  | .status => s.statusWord
  | .len => s.len.setWidth 32
  | .frame => bit s.dir ||| s.b0len.setWidth 32 <<< 8
  | .devaddr => s.devaddr
  | .fcnt => s.fcnt
  | .mic => s.mic
  | .key _ => 0
  | .din w => (s.din.quad w).toWord
  | .dout w => (s.dout.quad w).toWord
  | .mbuf w => s.mbufWord w

/-- A legal read of an offset: the register's value, zero at a reserved offset (R29, R61). -/
def State.readOffset (s : State) (o : Nat) : Word :=
  match regAt o with
  | some r => s.readReg r
  | none => 0

/-- A legal host write that is not refused, by register (R62). -/
def State.storeReg (s : State) (v : Word) : Reg → State
  | .id => s
  | .ctrl => { s with ie := v.getLsbD 0 }
  | .cmd => s.acceptCommand v
  | .status => s.writeStatus v
  | .len => { s with len := v.extractLsb' 0 9 }
  | .frame => { s with dir := v.getLsbD 0, b0len := v.extractLsb' 8 8 }
  | .devaddr => { s with devaddr := v }
  | .fcnt => { s with fcnt := v }
  | .mic => s
  | .key w => { s with key := s.key.setQuad w (Quad.ofWord v) }
  | .din w => { s with din := s.din.setQuad w (Quad.ofWord v) }
  | .dout _ => s
  | .mbuf w => { s with mbuf := s.mbuf.writeBytes (4 * w.val) (Quad.ofWord v).toList }

/-- A legal host write of a register: refused where it is an operand register and BUSY = 1 (R27, R62, R92). -/
def State.writeReg (s : State) (v : Word) (r : Reg) : State :=
  if r.isOperand && s.busy then s.refuseWrite else s.storeReg v r

/-- A legal write of an offset; a reserved offset ignores it (R29, R62). -/
def State.writeOffset (s : State) (o : Nat) (v : Word) : State :=
  match regAt o with
  | some r => s.writeReg v r
  | none => s

/-! ## Bus accesses and reset -/

/-- The window offset of a host address; `none` outside the window (R59; log 6). -/
def windowOffset (addr : Nat) : Option Nat :=
  if Config.lcbBase ≤ addr ∧ addr < Config.lcbBase + Config.windowBytes then some (addr - Config.lcbBase)
  else none

/-- A legal access at an offset: a read answers and changes nothing else (R61, R65), a write has its
effect (R62) and the draw of the free values moves on (log 4). -/
def State.legalAccess (s : State) (o : Nat) : HostAccess → State
  | .read _ _ => { s with reply := .data (s.readOffset o) }
  | .write _ _ v => State.writeOffset { s with draws := s.draws + 1, reply := .written } o v

/-- One host access (R60 to R62, R102). -/
def State.hostAccess (s : State) (a : HostAccess) : State :=
  match windowOffset a.addr with
  | none => { s with reply := .notSelected }
  | some o => if a.wf then s.legalAccess o a else s.raiseBusError a.addr

/-- The reset input, from any state (R168): every component of R53 takes its reset value, a command in
progress is abandoned, and every MBUF byte becomes unwritten (R169). The schedule goes on (log 17). -/
def State.assertReset (s : State) : State :=
  { State.reset with draws := s.draws + 1, inputs := s.inputs }

/-! ## Where the engine takes its command from -/

/-- The command word the engine performs: LASTOP, reserved bits zero (R50). -/
def State.fetchWord (s : State) : Word := s.lastop.setWidth 32

/-- Place a command word where the next step performs it: LASTOP holds its OP, the engine is BUSY, and
the engine's turn is next (R49, R50; log 12). -/
def State.placeCommand (s : State) (v : Word) : State :=
  { s with lastop := opField v, busy := true, inputs := .engine :: s.inputs }

end Sys2Proof.Machine
end

