-- ==== Sys2Proof/Machine/Operands.lean ====
section
/-! DEFINITION. Operand assembly (30_encoding.md R82): the message, and the two LoRaWAN blocks B0 and Ai. -/

namespace Sys2Proof.Machine

/-- `n = zext(R(LEN))` (R82). -/
def State.msgLen (s : State) : Nat := s.len.toNat

/-- The message `MBUF[0..n)`; `none` where a byte of it is unwritten (R81, R169). -/
def State.message (s : State) : Option (List Byte) := s.mbuf.slice s.msgLen

/-- `zext_32(R(FCNT)[15:0])`: only the low half of FCNT is used (R39, R82). -/
def State.fcnt16 (s : State) : Word := (s.fcnt.extractLsb' 0 16).setWidth 32

/-- The common layout of B0 and Ai: first byte, four zeros, DIR, `le32` of DEVADDR, `le32` of FCNT[15:0],
zero, last byte (R133, R142, R143). -/
def State.frameBlock (s : State) (first last : Byte) : List Byte :=
  [first, 0x00, 0x00, 0x00, 0x00, bit s.dir]
    ++ (le32 s.devaddr).toList ++ (le32 s.fcnt16).toList ++ [0x00, last]

/-- B0 (R135). -/
def State.b0 (s : State) : List Byte := s.frameBlock 0x49 s.b0len

/-- `A(i)` (R143). -/
def State.counterBlock (s : State) (i : Nat) : List Byte := s.frameBlock 0x01 (BitVec.ofNat 8 i)

end Sys2Proof.Machine
end

