-- ==== Sys2Proof/Machine/Aes.lean ====
section
/-! DEFINITION. AES-128 (41_aes.md section 2, FIPS-197) and the meanings of NOP, AES_ENC and AES_DEC. -/

namespace Sys2Proof.Machine

/-! ## Field arithmetic -/

/-- Multiplication by `{02}` in GF(2^8) (R108). -/
def xtime (a : Byte) : Byte := (a <<< 1) ^^^ (if a.getLsbD 7 then 0x1B else 0x00)

/-- `xtime^k(a)` (R108). -/
def xtimePow : Nat → Byte → Byte
  | 0, a => a
  | k + 1, a => xtime (xtimePow k a)

/-- The exclusive-or of `xtime^j(a)` over the set bits `j < k` of `b`. -/
def gmulBits (a b : Byte) : Nat → Byte
  | 0 => 0
  | k + 1 => gmulBits a b k ^^^ (if b.getLsbD k then xtimePow k a else 0)

/-- The field product `a • b` (R108). It is commutative; the constants stand second below. -/
def gmul (a b : Byte) : Byte := gmulBits a b 8

/-! ## The S-boxes -/

/-- The table of R110: row `X_`, column `_Y`. -/
def sboxRows : List (List Byte) :=
  [[0x63, 0x7c, 0x77, 0x7b, 0xf2, 0x6b, 0x6f, 0xc5, 0x30, 0x01, 0x67, 0x2b, 0xfe, 0xd7, 0xab, 0x76],
   [0xca, 0x82, 0xc9, 0x7d, 0xfa, 0x59, 0x47, 0xf0, 0xad, 0xd4, 0xa2, 0xaf, 0x9c, 0xa4, 0x72, 0xc0],
   [0xb7, 0xfd, 0x93, 0x26, 0x36, 0x3f, 0xf7, 0xcc, 0x34, 0xa5, 0xe5, 0xf1, 0x71, 0xd8, 0x31, 0x15],
   [0x04, 0xc7, 0x23, 0xc3, 0x18, 0x96, 0x05, 0x9a, 0x07, 0x12, 0x80, 0xe2, 0xeb, 0x27, 0xb2, 0x75],
   [0x09, 0x83, 0x2c, 0x1a, 0x1b, 0x6e, 0x5a, 0xa0, 0x52, 0x3b, 0xd6, 0xb3, 0x29, 0xe3, 0x2f, 0x84],
   [0x53, 0xd1, 0x00, 0xed, 0x20, 0xfc, 0xb1, 0x5b, 0x6a, 0xcb, 0xbe, 0x39, 0x4a, 0x4c, 0x58, 0xcf],
   [0xd0, 0xef, 0xaa, 0xfb, 0x43, 0x4d, 0x33, 0x85, 0x45, 0xf9, 0x02, 0x7f, 0x50, 0x3c, 0x9f, 0xa8],
   [0x51, 0xa3, 0x40, 0x8f, 0x92, 0x9d, 0x38, 0xf5, 0xbc, 0xb6, 0xda, 0x21, 0x10, 0xff, 0xf3, 0xd2],
   [0xcd, 0x0c, 0x13, 0xec, 0x5f, 0x97, 0x44, 0x17, 0xc4, 0xa7, 0x7e, 0x3d, 0x64, 0x5d, 0x19, 0x73],
   [0x60, 0x81, 0x4f, 0xdc, 0x22, 0x2a, 0x90, 0x88, 0x46, 0xee, 0xb8, 0x14, 0xde, 0x5e, 0x0b, 0xdb],
   [0xe0, 0x32, 0x3a, 0x0a, 0x49, 0x06, 0x24, 0x5c, 0xc2, 0xd3, 0xac, 0x62, 0x91, 0x95, 0xe4, 0x79],
   [0xe7, 0xc8, 0x37, 0x6d, 0x8d, 0xd5, 0x4e, 0xa9, 0x6c, 0x56, 0xf4, 0xea, 0x65, 0x7a, 0xae, 0x08],
   [0xba, 0x78, 0x25, 0x2e, 0x1c, 0xa6, 0xb4, 0xc6, 0xe8, 0xdd, 0x74, 0x1f, 0x4b, 0xbd, 0x8b, 0x8a],
   [0x70, 0x3e, 0xb5, 0x66, 0x48, 0x03, 0xf6, 0x0e, 0x61, 0x35, 0x57, 0xb9, 0x86, 0xc1, 0x1d, 0x9e],
   [0xe1, 0xf8, 0x98, 0x11, 0x69, 0xd9, 0x8e, 0x94, 0x9b, 0x1e, 0x87, 0xe9, 0xce, 0x55, 0x28, 0xdf],
   [0x8c, 0xa1, 0x89, 0x0d, 0xbf, 0xe6, 0x42, 0x68, 0x41, 0x99, 0x2d, 0x0f, 0xb0, 0x54, 0xbb, 0x16]]

/-- The table of R111: row `X_`, column `_Y`. -/
def invSboxRows : List (List Byte) :=
  [[0x52, 0x09, 0x6a, 0xd5, 0x30, 0x36, 0xa5, 0x38, 0xbf, 0x40, 0xa3, 0x9e, 0x81, 0xf3, 0xd7, 0xfb],
   [0x7c, 0xe3, 0x39, 0x82, 0x9b, 0x2f, 0xff, 0x87, 0x34, 0x8e, 0x43, 0x44, 0xc4, 0xde, 0xe9, 0xcb],
   [0x54, 0x7b, 0x94, 0x32, 0xa6, 0xc2, 0x23, 0x3d, 0xee, 0x4c, 0x95, 0x0b, 0x42, 0xfa, 0xc3, 0x4e],
   [0x08, 0x2e, 0xa1, 0x66, 0x28, 0xd9, 0x24, 0xb2, 0x76, 0x5b, 0xa2, 0x49, 0x6d, 0x8b, 0xd1, 0x25],
   [0x72, 0xf8, 0xf6, 0x64, 0x86, 0x68, 0x98, 0x16, 0xd4, 0xa4, 0x5c, 0xcc, 0x5d, 0x65, 0xb6, 0x92],
   [0x6c, 0x70, 0x48, 0x50, 0xfd, 0xed, 0xb9, 0xda, 0x5e, 0x15, 0x46, 0x57, 0xa7, 0x8d, 0x9d, 0x84],
   [0x90, 0xd8, 0xab, 0x00, 0x8c, 0xbc, 0xd3, 0x0a, 0xf7, 0xe4, 0x58, 0x05, 0xb8, 0xb3, 0x45, 0x06],
   [0xd0, 0x2c, 0x1e, 0x8f, 0xca, 0x3f, 0x0f, 0x02, 0xc1, 0xaf, 0xbd, 0x03, 0x01, 0x13, 0x8a, 0x6b],
   [0x3a, 0x91, 0x11, 0x41, 0x4f, 0x67, 0xdc, 0xea, 0x97, 0xf2, 0xcf, 0xce, 0xf0, 0xb4, 0xe6, 0x73],
   [0x96, 0xac, 0x74, 0x22, 0xe7, 0xad, 0x35, 0x85, 0xe2, 0xf9, 0x37, 0xe8, 0x1c, 0x75, 0xdf, 0x6e],
   [0x47, 0xf1, 0x1a, 0x71, 0x1d, 0x29, 0xc5, 0x89, 0x6f, 0xb7, 0x62, 0x0e, 0xaa, 0x18, 0xbe, 0x1b],
   [0xfc, 0x56, 0x3e, 0x4b, 0xc6, 0xd2, 0x79, 0x20, 0x9a, 0xdb, 0xc0, 0xfe, 0x78, 0xcd, 0x5a, 0xf4],
   [0x1f, 0xdd, 0xa8, 0x33, 0x88, 0x07, 0xc7, 0x31, 0xb1, 0x12, 0x10, 0x59, 0x27, 0x80, 0xec, 0x5f],
   [0x60, 0x51, 0x7f, 0xa9, 0x19, 0xb5, 0x4a, 0x0d, 0x2d, 0xe5, 0x7a, 0x9f, 0x93, 0xc9, 0x9c, 0xef],
   [0xa0, 0xe0, 0x3b, 0x4d, 0xae, 0x2a, 0xf5, 0xb0, 0xc8, 0xeb, 0xbb, 0x3c, 0x83, 0x53, 0x99, 0x61],
   [0x17, 0x2b, 0x04, 0x7e, 0xba, 0x77, 0xd6, 0x26, 0xe1, 0x69, 0x14, 0x63, 0x55, 0x21, 0x0c, 0x7d]]

/-- The entry in row `X_` and column `_Y` for the byte 0xXY (R110, R111). -/
def tableEntry (rows : List (List Byte)) (a : Byte) : Byte :=
  (rows.getD (a.toNat / 16) []).getD (a.toNat % 16) 0

/-- `SBOX[a]` (R110). -/
def sbox (a : Byte) : Byte := tableEntry sboxRows a

/-- `INV_SBOX[a]` (R111). -/
def invSbox (a : Byte) : Byte := tableEntry invSboxRows a

/-! ## The round steps; column `c` of the state is `q<c>`, row `r` its byte `b<r>` (R107) -/

/-- SubBytes (R112). -/
def subBytes (s : Block) : Block := s.map sbox

/-- InvSubBytes (R112). -/
def invSubBytes (s : Block) : Block := s.map invSbox

/-- ShiftRows: `s'[r][c] = s[r][(c + r) mod 4]` (R113). -/
def shiftRows (s : Block) : Block :=
  ⟨⟨s.q0.b0, s.q1.b1, s.q2.b2, s.q3.b3⟩, ⟨s.q1.b0, s.q2.b1, s.q3.b2, s.q0.b3⟩,
   ⟨s.q2.b0, s.q3.b1, s.q0.b2, s.q1.b3⟩, ⟨s.q3.b0, s.q0.b1, s.q1.b2, s.q2.b3⟩⟩

/-- InvShiftRows: `s'[r][(c + r) mod 4] = s[r][c]` (R113). -/
def invShiftRows (s : Block) : Block :=
  ⟨⟨s.q0.b0, s.q3.b1, s.q2.b2, s.q1.b3⟩, ⟨s.q1.b0, s.q0.b1, s.q3.b2, s.q2.b3⟩,
   ⟨s.q2.b0, s.q1.b1, s.q0.b2, s.q3.b3⟩, ⟨s.q3.b0, s.q2.b1, s.q1.b2, s.q0.b3⟩⟩

/-- One column times the circulant matrix whose first row is `m0 m1 m2 m3` (R114, R115). -/
def mixWith (m0 m1 m2 m3 : Byte) (q : Quad) : Quad where
  b0 := gmul q.b0 m0 ^^^ gmul q.b1 m1 ^^^ gmul q.b2 m2 ^^^ gmul q.b3 m3
  b1 := gmul q.b0 m3 ^^^ gmul q.b1 m0 ^^^ gmul q.b2 m1 ^^^ gmul q.b3 m2
  b2 := gmul q.b0 m2 ^^^ gmul q.b1 m3 ^^^ gmul q.b2 m0 ^^^ gmul q.b3 m1
  b3 := gmul q.b0 m1 ^^^ gmul q.b1 m2 ^^^ gmul q.b2 m3 ^^^ gmul q.b3 m0

/-- MixColumns on one column (R114). -/
def mixQuad (q : Quad) : Quad := mixWith 0x02 0x03 0x01 0x01 q

/-- InvMixColumns on one column (R115). -/
def invMixQuad (q : Quad) : Quad := mixWith 0x0e 0x0b 0x0d 0x09 q

/-- MixColumns (R114). -/
def mixColumns (s : Block) : Block := ⟨mixQuad s.q0, mixQuad s.q1, mixQuad s.q2, mixQuad s.q3⟩

/-- InvMixColumns (R115). -/
def invMixColumns (s : Block) : Block :=
  ⟨invMixQuad s.q0, invMixQuad s.q1, invMixQuad s.q2, invMixQuad s.q3⟩

/-! ## The key schedule -/

/-- `RCON[j] = xtime^(j-1)(0x01)` (R118). -/
def rcon (j : Nat) : Byte := xtimePow (j - 1) 0x01

/-- RotWord (R117). -/
def rotWord (t : Quad) : Quad := ⟨t.b1, t.b2, t.b3, t.b0⟩

/-- SubWord (R117). -/
def subWord (t : Quad) : Quad := t.map sbox

/-- The four words after a round key: four turns of the loop of R117, `i = 4j` to `4j + 3`. -/
def nextRoundKey (j : Nat) (k : Block) : Block :=
  let t := (subWord (rotWord k.q3)).xor ⟨rcon j, 0, 0, 0⟩
  let w0 := k.q0.xor t
  let w1 := k.q1.xor w0
  let w2 := k.q2.xor w1
  let w3 := k.q3.xor w2
  ⟨w0, w1, w2, w3⟩

/-- Round key `rnd`: `w[4·rnd] ‖ w[4·rnd+1] ‖ w[4·rnd+2] ‖ w[4·rnd+3]` (R116, R117). -/
def roundKey (k : Block) : Nat → Block
  | 0 => k
  | rnd + 1 => nextRoundKey (rnd + 1) (roundKey k rnd)

/-- `AddRoundKey(s, rnd)` (R116). -/
def addRoundKey (k : Block) (rnd : Nat) (s : Block) : Block := s.xor (roundKey k rnd)

/-! ## The cipher and the inverse cipher -/

/-- Rounds `1` to `n` of the cipher (R119). -/
def encRounds (k : Block) : Nat → Block → Block
  | 0, s => s
  | n + 1, s => addRoundKey k (n + 1) (mixColumns (shiftRows (subBytes (encRounds k n s))))

/-- `AES_E(k, in)` (R119). -/
def aesE (k x : Block) : Block :=
  addRoundKey k 10 (shiftRows (subBytes (encRounds k 9 (addRoundKey k 0 x))))

/-- Rounds `n` down to `1` of the inverse cipher (R120). -/
def decRounds (k : Block) : Nat → Block → Block
  | 0, s => s
  | n + 1, s => decRounds k n (invMixColumns (addRoundKey k (n + 1) (invSubBytes (invShiftRows s))))

/-- `AES_D(k, in)` (R120). -/
def aesD (k x : Block) : Block :=
  addRoundKey k 0 (invSubBytes (invShiftRows (decRounds k 9 (addRoundKey k 10 x))))

/-! ## The commands -/

/-- NOP: nothing is committed (R97). -/
def execNop (s : State) : Host.Outcome State Fault Refusal := .next s.complete

/-- AES_ENC: `DOUT <- AES_E(KEY, DIN)` (R104). -/
def execAesEnc (s : State) : Host.Outcome State Fault Refusal :=
  .next (State.complete { s with dout := aesE s.key s.din })

/-- AES_DEC: `DOUT <- AES_D(KEY, DIN)` (R105). -/
def execAesDec (s : State) : Host.Outcome State Fault Refusal :=
  .next (State.complete { s with dout := aesD s.key s.din })

end Sys2Proof.Machine
end

