-- ==== Sys2Proof/Machine/Cmac.lean ====
section
/-! DEFINITION. AES-CMAC (42_cmac.md) and the meanings of CMAC and MIC_DATA (43_mic.md). -/

namespace Sys2Proof.Machine

/-! ## Subkeys -/

/-- `((X[j] << 1) | X[j+1][7]) & 0xFF` (R124). -/
def shiftIn (x next : Byte) : Byte := (x <<< 1) ||| bit (next.getLsbD 7)

/-- The sixteen bytes shifted left by one bit, byte 0 most significant (R14, R124). -/
def shiftLeftOne (x : Block) : Block := Block.ofList (List.zipWith shiftIn x.toList (x.toList.tail ++ [0x00]))

/-- The block that is zero but for its last byte. -/
def lastByte (b : Byte) : Block := ⟨⟨0, 0, 0, 0⟩, ⟨0, 0, 0, 0⟩, ⟨0, 0, 0, 0⟩, ⟨0, 0, 0, b⟩⟩

/-- `dbl(X)` (R124). -/
def dbl (x : Block) : Block := if x.q0.b0.getLsbD 7 then (shiftLeftOne x).xor (lastByte 0x87) else shiftLeftOne x

/-- `L` (R123). -/
def cmacL (k : Block) : Block := aesE k Block.zero

/-- `K1` (R125). -/
def cmacK1 (k : Block) : Block := dbl (cmacL k)

/-- `K2` (R125). -/
def cmacK2 (k : Block) : Block := dbl (cmacK1 k)

/-! ## Blocks, padding and the chain -/

/-- The first `q` blocks of a byte string (R127). -/
def fullBlocks : Nat → List Byte → List Block
  | 0, _ => []
  | q + 1, m => Block.ofList (m.take 16) :: fullBlocks q (m.drop 16)

/-- `rest ‖ [0x80] ‖ 0x00×(15 − r)` for `r < 16` bytes left over (R127). -/
def padBlock (rest : List Byte) : Block :=
  Block.ofList (rest ++ [0x80] ++ List.replicate (15 - rest.length) 0x00)

/-- `n > 0` and `n mod 16 = 0`: the message is whole blocks (R127). -/
def isComplete (m : List Byte) : Bool := decide (0 < m.length) && decide (m.length % 16 = 0)

/-- The number of blocks before the last (R127). -/
def headCount (m : List Byte) : Nat := if isComplete m then m.length / 16 - 1 else m.length / 16

/-- `M_q`, with K1 or K2 in it (R127). -/
def lastBlock (k : Block) (m : List Byte) : Block :=
  if isComplete m then (Block.ofList (m.drop (16 * headCount m))).xor (cmacK1 k)
  else (padBlock (m.drop (16 * headCount m))).xor (cmacK2 k)

/-- `M_1` to `M_q` (R127). -/
def cmacBlocks (k : Block) (m : List Byte) : List Block := fullBlocks (headCount m) m ++ [lastBlock k m]

/-- `X <- AES_E(K, X ⊕ M_j)` over the blocks (R128). -/
def cbcMac (k : Block) : Block → List Block → Block
  | x, [] => x
  | x, b :: bs => cbcMac k (aesE k (x.xor b)) bs

/-- `CMAC(K, M)` (R129). -/
def cmacTag (k : Block) (m : List Byte) : Block := cbcMac k Block.zero (cmacBlocks k m)

/-! ## The commands -/

/-- The tag of a message under KEY; the free tag where a byte of the message is unwritten
(R126, R136, R169; log 2). -/
def State.tagOf (s : State) (prefixBytes : List Byte) : Block :=
  match s.message with
  | some m => cmacTag s.key (prefixBytes ++ m)
  | none => Config.freeTag s.draws

/-- `DOUT <- T; R(MIC) <- T[0] | T[1]<<8 | T[2]<<16 | T[3]<<24` (R40, R126, R136). -/
def State.commitTag (s : State) (t : Block) : State := { s with dout := t, mic := t.q0.toWord }

/-- CMAC of `MBUF[0..n)` (R126). -/
def execCmac (s : State) : Host.Outcome State Fault Refusal :=
  .next (State.complete (s.commitTag (s.tagOf [])))

/-- MIC_DATA: CMAC of `B0 ‖ MBUF[0..n)` (R136). -/
def execMicData (s : State) : Host.Outcome State Fault Refusal :=
  .next (State.complete (s.commitTag (s.tagOf s.b0)))

end Sys2Proof.Machine
end

