-- ==== Sys2Proof/Machine/Ctr.lean ====
section
/-! DEFINITION. The LoRaWAN counter-mode payload cipher and the meaning of CTR_XOR (44_payload_cipher.md). -/

namespace Sys2Proof.Machine

/-- `S_i = AES_E(KEY, A(i))` (R144). -/
def State.keystreamBlock (s : State) (i : Nat) : Block := aesE s.key (Block.ofList (s.counterBlock i))

/-- `S_i ‖ S_{i+1} ‖ …`, `count` blocks of it. -/
def State.keystreamFrom (s : State) : Nat → Nat → List Byte
  | _, 0 => []
  | i, count + 1 => (s.keystreamBlock i).toList ++ s.keystreamFrom (i + 1) count

/-- `⌈n/16⌉`, the number of blocks (R141). -/
def blockCount (n : Nat) : Nat := (n + 15) / 16

/-- The message with the keystream in it, the last partial block over its length only (R145). -/
def State.xorKeystream (s : State) (p : List Byte) : List Byte :=
  List.zipWith (· ^^^ ·) p (s.keystreamFrom 1 (blockCount p.length))

/-- MBUF after a CTR_XOR whose message has an unwritten byte: every written byte of `MBUF[0..n)` is a free
value, and an unwritten byte stays unwritten until a host write to its word (R169; log 3). -/
def scrambleBelow (d n : Nat) (m : Memory) : Memory :=
  m.map fun c => if c.1 < n then (c.1, Config.freeCipherByte d c.1) else c

/-- MBUF after CTR_XOR (R145, R169). -/
def State.cipherMbuf (s : State) : Memory :=
  match s.message with
  | some p => s.mbuf.writeBytes 0 (s.xorKeystream p)
  | none => scrambleBelow s.draws s.msgLen s.mbuf

/-- CTR_XOR: the keystream into `MBUF[0..n)` in place (R145). -/
def execCtrXor (s : State) : Host.Outcome State Fault Refusal :=
  .next (State.complete { s with mbuf := s.cipherMbuf })

end Sys2Proof.Machine
end

