-- ==== Sys2Proof/Machine/Dispatch.lean ====
section
/-! DEFINITION. One arm per command: what the engine commits when it performs it (40_command.md R95). -/

namespace Sys2Proof.Machine

/-- The completion of a command: `SEM[op]`, its commit, and the flags of R95. -/
def exec (i : Instr) (s : State) : Host.Outcome State Fault Refusal :=
  match i with
  | .nop => Sys2Proof.Machine.execNop s
  | .aesEnc => Sys2Proof.Machine.execAesEnc s
  | .aesDec => Sys2Proof.Machine.execAesDec s
  | .cmac => Sys2Proof.Machine.execCmac s
  | .micData => Sys2Proof.Machine.execMicData s
  | .ctrXor => Sys2Proof.Machine.execCtrXor s

end Sys2Proof.Machine
end

