-- ==== Sys2Proof/Machine/Engine.lean ====
section
/-! DEFINITION. Turns: which agent acts in a step (40_command.md R95, R96, R102). -/

namespace Sys2Proof.Machine

/-- The engine's step: it performs the command LASTOP names (R50, R95; log 9). -/
def State.engineStep (s : State) : Host.Outcome State Fault Refusal :=
  match decodeWord s.fetchWord with
  | some i => exec i s
  | none => .fault (.reservedOpStarted s.lastop)

/-- The engine's turn: its step is defined only where BUSY = 1; elsewhere nothing happens (R95, R102). -/
def State.engineTurn (s : State) : Host.Outcome State Fault Refusal :=
  if s.busy then s.engineStep else .next s

/-- One input (R102, R168). -/
def State.takeInput (s : State) : Input → Host.Outcome State Fault Refusal
  | .access a => .next (s.hostAccess a)
  | .engine => s.engineTurn
  | .reset => .next s.assertReset

/-- The next turn: the first input of the schedule, or, where none is left, the engine's, so that every
started command completes (R96; log 7). -/
def State.takeTurn (s : State) : Host.Outcome State Fault Refusal :=
  match s.inputs with
  | [] => s.engineTurn
  | i :: rest => State.takeInput { s with inputs := rest } i

end Sys2Proof.Machine
end

