-- ==== Sys2Proof/Machine/Step.lean ====
section
/-! DEFINITION. The step, and the placing of one command where the next step performs it. -/

namespace Sys2Proof.Machine

/-- One step of the block: one host access, one completion, or reset (R102, R168). -/
def step (s : State) : Host.Outcome State Fault Refusal := s.takeTurn

/-- `s` with the command word of a table row as the started command, the engine's turn next (log 12). -/
def State.withFetchWord (s : State) (nbits w : Nat) : State :=
  s.placeCommand (BitVec.ofNat 32 (w % 2 ^ nbits))

end Sys2Proof.Machine
end

