-- ==== Sys2Proof/Machine/HostScript.lean ====
section
/-! DEFINITION. Host scripts (30_encoding.md section 4): their bus transactions, the pseudo-instructions,
the text syntax, and a host that runs a script against the block. A script is what a host does on the
bus; the block runs no code (R66). -/

namespace Sys2Proof

/-! ## Statements and transactions -/

/-- `MemWrite(LCB_BASE + off(reg), 4, value)` (R88). -/
def writeAccess (r : Reg) (v : Word) : HostAccess := .write (Config.lcbBase + r.offset) 4 v

/-- `MemRead(LCB_BASE + off(reg), 4)` (R88). -/
def readAccess (r : Reg) : HostAccess := .read (Config.lcbBase + r.offset) 4

/-- The transaction of one execution of a statement (R89). A `POLL` executes as often as it has to. -/
def Stmt.transaction : Stmt → Option Transaction
  | .wr r v => some (.w r.offset v)
  | .rd r => some (.r r.offset)
  | .poll r _ _ => some (.r r.offset)
  | .bne r _ _ _ => some (.r r.offset)
  | .label _ => none
  | .halt => none

/-- The encoding of a statement, by the number of reads a `POLL` performs: its `R off` repeated so often.
Any other statement has its one transaction, or none (R89). -/
def Stmt.encoding (reads : Nat) : Stmt → List Transaction
  | .poll r _ _ => List.replicate reads (.r r.offset)
  | .wr r v => (Stmt.wr r v).transaction.toList
  | .rd r => (Stmt.rd r).transaction.toList
  | .bne r m v t => (Stmt.bne r m v t).transaction.toList
  | .label n => (Stmt.label n).transaction.toList
  | .halt => Stmt.halt.transaction.toList

/-- The bus access of a transaction. -/
def Transaction.access : Transaction → HostAccess
  | .w o v => .write (Config.lcbBase + o) 4 v
  | .r o => .read (Config.lcbBase + o) 4

/-- A lower-case hexadecimal digit. -/
def hexDigit (n : Nat) : Char := if n < 10 then Char.ofNat (48 + n) else Char.ofNat (87 + n)

/-- The `k` lowest hexadecimal digits of a number, the most significant first. -/
def hexChars : Nat → Nat → List Char
  | 0, _ => []
  | k + 1, n => hexChars k (n / 16) ++ [hexDigit (n % 16)]

/-- `W off data` or `R off`: a 3-digit offset and an 8-digit word (R89). -/
def Transaction.text : Transaction → String
  | .w o v => "W " ++ String.ofList (hexChars 3 o) ++ " " ++ String.ofList (hexChars 8 v.toNat)
  | .r o => "R " ++ String.ofList (hexChars 3 o)

/-! ## Pseudo-instructions (R90) -/

/-- The four words of a 16-byte group written in order. -/
def loadGroup (reg : Fin 4 → Reg) (x : Block) : List Stmt :=
  [.wr (reg 0) x.q0.toWord, .wr (reg 1) x.q1.toWord, .wr (reg 2) x.q2.toWord, .wr (reg 3) x.q3.toWord]

/-- `LDKEY h`. -/
def ldKey (x : Block) : List Stmt := loadGroup .key x

/-- `LDDIN h`. -/
def ldDin (x : Block) : List Stmt := loadGroup .din x

/-- Word `0` of a byte string, absent bytes as 0x00. -/
def firstWord (bytes : List Byte) : Word :=
  Quad.toWord ⟨bytes.getD 0 0, bytes.getD 1 0, bytes.getD 2 0, bytes.getD 3 0⟩

/-- `count` words of a byte string written from `MBUF w` up. -/
def loadWords : Nat → Nat → List Byte → List Stmt
  | _, 0, _ => []
  | w, count + 1, bytes => .wr (.mbuf (Fin.ofNat 64 w)) (firstWord bytes) :: loadWords (w + 1) count (bytes.drop 4)

/-- `LDBUF h`: `⌈n/4⌉` words, the bytes past `n` in the last word 0x00, then LEN. -/
def ldBuf (bytes : List Byte) : List Stmt :=
  loadWords 0 ((bytes.length + 3) / 4) bytes ++ [.wr .len (BitVec.ofNat 32 bytes.length)]

/-- `SETFRAME d, b`. -/
def setFrame (d b : Word) : List Stmt := [.wr .frame (b <<< 8 ||| d)]

/-- `RUN op`. -/
def runCommand (i : Instr) : List Stmt := [.wr .cmd (encode i), .poll .status 0x1 0x0]

/-- `CLR`. -/
def clr : List Stmt := [.wr .status 0x6]

/-- `RDOUT`. -/
def rdOut : List Stmt := [.rd (.dout 0), .rd (.dout 1), .rd (.dout 2), .rd (.dout 3)]

/-! ## Script text (R88, R91) -/

/-- A register's name (R25, R88). -/
def Reg.name : Reg → List Char
  | .id => "ID".toList
  | .ctrl => "CTRL".toList
  | .cmd => "CMD".toList
  | .status => "STATUS".toList
  | .len => "LEN".toList
  | .frame => "FRAME".toList
  | .devaddr => "DEVADDR".toList
  | .fcnt => "FCNT".toList
  | .mic => "MIC".toList
  | .key w => "KEY".toList ++ Nat.toDigits 10 w.val
  | .din w => "DIN".toList ++ Nat.toDigits 10 w.val
  | .dout w => "DOUT".toList ++ Nat.toDigits 10 w.val
  | .mbuf w => "MBUF".toList ++ Nat.toDigits 10 w.val

/-- Every register (R25). -/
def allRegs : List Reg :=
  [Reg.id, .ctrl, .cmd, .status, .len, .frame, .devaddr, .fcnt, .mic]
    ++ (List.finRange 4).map .key ++ (List.finRange 4).map .din ++ (List.finRange 4).map .dout
    ++ (List.finRange 64).map .mbuf

/-- The spelling `MBUF[k]` of `MBUFk`; no other register has one (R88). -/
def Reg.indexedName : Reg → Option (List Char)
  | .mbuf w => some ("MBUF[".toList ++ Nat.toDigits 10 w.val ++ "]".toList)
  | .id | .ctrl | .cmd | .status | .len | .frame | .devaddr | .fcnt | .mic | .key _ | .din _ | .dout _ => none

/-- The register a name stands for, in either spelling (R88). Register names are upper case (R91). -/
def Reg.ofName (name : List Char) : Option Reg :=
  allRegs.find? fun r => name == r.name || some name == r.indexedName

/-- The value of a digit in a base up to sixteen. -/
def digitValue (base : Nat) (c : Char) : Option Nat :=
  let n := c.toNat
  let v := if 48 ≤ n ∧ n ≤ 57 then n - 48
    else if 97 ≤ n ∧ n ≤ 102 then n - 87
    else if 65 ≤ n ∧ n ≤ 70 then n - 55
    else 16
  if v < base then some v else none

/-- The digits of a number, most significant first, after `acc`. -/
def digitsValue (base : Nat) : Nat → List Char → Option Nat
  | acc, [] => some acc
  | acc, c :: cs =>
    match digitValue base c with
    | some v => digitsValue base (base * acc + v) cs
    | none => none

/-- A number: hexadecimal with `0x`, or decimal (R88). -/
def parseNat : List Char → Option Nat
  | [] => none
  | '0' :: 'x' :: c :: cs => digitsValue 16 0 (c :: cs)
  | c :: cs => digitsValue 10 0 (c :: cs)

/-- A number as a word. R88 does not say what a number of 2^32 or more means: DESIGN CHOICE, its value
modulo 2^32 (log 13). -/
def parseWord (t : List Char) : Option Word := (parseNat t).map (BitVec.ofNat 32)

/-- A byte string: two hexadecimal digits a byte, first byte leftmost (R12). -/
def parseBytes : List Char → Option (List Byte)
  | [] => some []
  | [_] => none
  | a :: b :: cs =>
    match digitsValue 16 0 [a, b], parseBytes cs with
    | some v, some l => some (BitVec.ofNat 8 v :: l)
    | _, _ => none

/-- The words of a line: cut at blanks, tabs and commas (DESIGN CHOICE, log 13), nothing from `;` on (R88). -/
def tokens : List Char → List Char → List (List Char)
  | word, [] => if word.isEmpty then [] else [word.reverse]
  | word, c :: cs =>
    if c == ';' then (if word.isEmpty then [] else [word.reverse])
    else if c == ' ' || c == ',' || c == '\t' then
      (if word.isEmpty then tokens [] cs else word.reverse :: tokens [] cs)
    else tokens (c :: word) cs

/-- The statements of a line's words: a statement of R88 or a pseudo-instruction of R90. The spec does not
spell an `LDBUF` of no byte: DESIGN CHOICE, `LDBUF` alone (log 13). -/
def parseStmt : List (List Char) → Option (List Stmt)
  | [] => some []
  | [op] =>
    if op == "CLR".toList then some clr
    else if op == "RDOUT".toList then some rdOut
    else if op == "HALT".toList then some [.halt]
    else if op == "LDBUF".toList then some (ldBuf [])
    else none
  | [op, a] =>
    if op == "RD".toList then (Reg.ofName a).map fun r => [.rd r]
    else if op == "RUN".toList then (Instr.ofMnemonic (String.ofList a)).map runCommand
    else if op == "LDKEY".toList then
      (parseBytes a).bind fun l => if l.length = 16 then some (ldKey (Block.ofList l)) else none
    else if op == "LDDIN".toList then
      (parseBytes a).bind fun l => if l.length = 16 then some (ldDin (Block.ofList l)) else none
    else if op == "LDBUF".toList then
      (parseBytes a).bind fun l => if ldBufWf l then some (ldBuf l) else none
    else none
  | [op, a, b] =>
    if op == "WR".toList then
      (Reg.ofName a).bind fun r => (parseWord b).map fun v => [.wr r v]
    else if op == "SETFRAME".toList then
      (parseWord a).bind fun d => (parseWord b).map fun v => setFrame d v
    else none
  | [op, a, b, c] =>
    if op == "POLL".toList then
      (Reg.ofName a).bind fun r => (parseWord b).bind fun m => (parseWord c).map fun v => [.poll r m v]
    else none
  | [op, a, b, c, t] =>
    if op == "BNE".toList then
      (Reg.ofName a).bind fun r => (parseWord b).bind fun m => (parseWord c).map fun v =>
        [.bne r m v (String.ofList t)]
    else none
  | _ => none

/-- A line of script text, with its `label:` if it has one (R88). R88 is silent on a line that is blank or
only a comment, and on a label with nothing after it on its line: DESIGN CHOICE, the first has no statement,
and the second is the label alone, which names the statement of a later line (log 13). -/
def parseLine (line : String) : Option (List Stmt) :=
  match tokens [] line.toList with
  | [] => some []
  | w :: ws =>
    if w.getLast? == some ':' then
      (parseStmt ws).map fun l => .label (String.ofList w.dropLast) :: l
    else parseStmt (w :: ws)

/-- A script's text, line by line; `none` where a line is neither a statement nor blank (log 13). -/
def parseScript : List String → Option (List Stmt)
  | [] => some []
  | l :: ls =>
    match parseLine l, parseScript ls with
    | some a, some b => some (a ++ b)
    | _, _ => none

end Sys2Proof

namespace Sys2Proof.Machine

/-! ## A host that runs a script -/

/-- A script in progress: the block, the script, the next statement, the values read, latest first, and
the transactions performed, in order: the encoding of what has run (R89). -/
structure ScriptRun where
  block : State
  prog : List Stmt
  pc : Nat
  reads : List Word
  sent : List Transaction
  deriving DecidableEq, Repr

/-- Who moves next while a script runs (R102). -/
inductive Turn where
  | host
  | engine
  deriving DecidableEq, Repr

/-- The position of a label. R88 is silent on a name that stands twice and on one that stands nowhere:
DESIGN CHOICE, the first place, and the script's end (log 13). -/
def labelIndex (name : String) (prog : List Stmt) : Nat := prog.findIdx (fun st => st == .label name)

/-- The value the last read returned. -/
def State.lastRead (s : State) : Word :=
  match s.reply with
  | .data v => v
  | .noAccess | .written | .busError _ | .notSelected => 0

/-- A read of `r`, with where the script goes on for the value read. -/
def ScriptRun.readThen (h : ScriptRun) (r : Reg) (next : Word → Nat) : ScriptRun :=
  let s := h.block.hostAccess (readAccess r)
  { h with
    block := s, pc := next s.lastRead, reads := s.lastRead :: h.reads, sent := h.sent ++ [.r r.offset] }

/-- One statement of the host (R88); past the end, and at `HALT`, it does nothing more. -/
def ScriptRun.hostTurn (h : ScriptRun) : ScriptRun :=
  match h.prog[h.pc]? with
  | none => h
  | some .halt => h
  | some (.label _) => { h with pc := h.pc + 1 }
  | some (.wr r v) =>
    { h with block := h.block.hostAccess (writeAccess r v), pc := h.pc + 1, sent := h.sent ++ [.w r.offset v] }
  | some (.rd r) => h.readThen r fun _ => h.pc + 1
  | some (.poll r m v) => h.readThen r fun x => if x &&& m = v then h.pc + 1 else h.pc
  | some (.bne r m v t) => h.readThen r fun x => if x &&& m = v then h.pc + 1 else labelIndex t h.prog

/-- A script about to run against a block. -/
def ScriptRun.start (s : State) (prog : List Stmt) : ScriptRun :=
  { block := s, prog := prog, pc := 0, reads := [], sent := [] }

/-- One turn of either agent; `none` where the block stops. -/
def ScriptRun.turn (h : ScriptRun) : Turn → Option ScriptRun
  | .host => some h.hostTurn
  | .engine =>
    match h.block.engineTurn with
    | .next s => some { h with block := s }
    | .fault _ => none
    | .refused _ => none

/-- The turns of a schedule, in order. -/
def ScriptRun.run (h : ScriptRun) : List Turn → Option ScriptRun
  | [] => some h
  | t :: ts =>
    match h.turn t with
    | some h' => h'.run ts
    | none => none

end Sys2Proof.Machine
end

