-- ==== Sys2Proof/Safety.lean ====
section
/-! DEFINITION. What the statements call a good state and a good run: the block's invariant, the faults of
the host that a step flags, and runs of host accesses. -/

namespace Sys2Proof.Machine

/-- ERRCODE is one of 0 to 3, and is 0 exactly where ERR is 0 (R35, U7). -/
def State.errOk (s : State) : Bool :=
  decide (s.errcode.toNat ≤ 3) && (s.err == decide (s.errcode ≠ 0#4))

/-- While BUSY, LASTOP is a command, its LEN has passed the check of R94, and DONE is 0 (R93, R94). -/
def State.startedOk (s : State) : Bool :=
  !s.busy || (!s.done &&
    match decodeOp s.lastop with
    | some i => !i.checksLen || decide (s.len.toNat ≤ Config.mbufBytes)
    | none => false)

/-- The invariant every step keeps. -/
def State.inv (s : State) : Bool := s.errOk && s.startedOk && s.mbuf.wf

/-- The step just taken is a fault of the host: an access that is not an aligned 32-bit one (R152, U2). -/
def State.hostFault (s : State) : Bool :=
  match s.reply with
  | .busError _ => true
  | .noAccess | .data _ | .written | .notSelected => false

/-- Host accesses taken one after another, with no engine turn between them. -/
def State.afterAccesses (s : State) : List HostAccess → State
  | [] => s
  | a :: as => (s.hostAccess a).afterAccesses as

/-- The bus accesses of a script with no `POLL` and no `BNE`, in order (R89); what a script with them
performs is `ScriptRun.sent`. -/
def scriptAccesses (prog : List Stmt) : List HostAccess :=
  prog.filterMap fun st => st.transaction.map Transaction.access

/-- It is the engine's turn: it is named by the schedule, or the schedule has ended (R96, R102). -/
def State.isEngineTurn (s : State) : Bool :=
  match s.inputs with
  | [] => true
  | .engine :: _ => true
  | .access _ :: _ => false
  | .reset :: _ => false

/-- The next input is the reset input. -/
def State.isResetTurn (s : State) : Bool :=
  match s.inputs with
  | .reset :: _ => true
  | [] => false
  | .engine :: _ => false
  | .access _ :: _ => false

/-- The value of the word a legal write of register `r` carries, where the next input is one. -/
def State.nextWrite (s : State) (r : Reg) : Option Word :=
  match s.inputs with
  | .access (.write a 4 v) :: _ => if a = Config.lcbBase + r.offset then some v else none
  | _ => none

/-- The next input is a legal read at window offset `o`, with `rest` after it. -/
def State.readsAt (s : State) (o : Nat) (rest : List Input) : Prop :=
  s.inputs = .access (.read (Config.lcbBase + o) 4) :: rest

/-- The next input is a legal write of `v` at window offset `o`, with `rest` after it. -/
def State.writesAt (s : State) (o : Nat) (v : Word) (rest : List Input) : Prop :=
  s.inputs = .access (.write (Config.lcbBase + o) 4 v) :: rest

/-- What every legal read does beside its answer: the schedule moves on, and the bus carries `v`. -/
def State.answered (s : State) (rest : List Input) (v : Word) : State :=
  { s with inputs := rest, reply := .data v }

/-- What every legal write does beside its effect: the schedule and the draw of the free values move on,
and the bus write ends without an error. -/
def State.acked (s : State) (rest : List Input) : State :=
  { s with inputs := rest, reply := .written, draws := s.draws + 1 }

/-- The offsets of the window that hold no register (R29). -/
def reservedOffset (o : Nat) : Prop :=
  o = 0x024 ∨ o = 0x028 ∨ o = 0x02C ∨ (0x060 ≤ o ∧ o ≤ 0x0FC ∧ o % 4 = 0)

/-- The message of `s` is written, and is the byte string `m` (R20, R169). -/
def State.hasMessage (s : State) (m : List Byte) : Prop :=
  m.length = s.len.toNat ∧ ∀ k, k < m.length → s.mbuf.read k = m[k]?

/-- A 16-byte block as a 128-bit number, byte 0 most significant (R14). -/
def blockInt (x : Block) : Nat := x.toList.foldl (fun acc b => 256 * acc + b.toNat) 0

/-- The affine map of R109. -/
def sboxAffine (b : Byte) : Byte :=
  b ^^^ b.rotateLeft 1 ^^^ b.rotateLeft 2 ^^^ b.rotateLeft 3 ^^^ b.rotateLeft 4 ^^^ 0x63

/-- `s[r][c]`, the byte `r + 4c` of a block (R107). -/
def cell (x : Block) (r c : Nat) : Byte := x.toList.getD (r + 4 * c) 0

/-- Word `w[i]` of the expanded key (R116, R117). -/
def keyWord (k : Block) (i : Nat) : Quad := (roundKey k (i / 4)).quad (Fin.ofNat 4 i)

end Sys2Proof.Machine
end

