-- ==== Sys2Proof/Certificates/Slice0/Obligations.lean ====
section
/-! DEFINITION. The statements for the provers. -/

open Sys2Proof Sys2Proof.Machine

/-! ## Encoding -/

/-- A few command words, read by hand off the encodings of R79 and R83: each command's own word, one with
every reserved bit set (R80), and one reserved OP (R84). -/
def Obligations.SampleWordsDecode : Prop :=
  decodeWord 0x00000000#32 = some .nop ∧ decodeWord 0x00000001#32 = some .aesEnc ∧
  decodeWord 0x00000002#32 = some .aesDec ∧ decodeWord 0x00000003#32 = some .cmac ∧
  decodeWord 0x00000004#32 = some .micData ∧ decodeWord 0x00000005#32 = some .ctrXor ∧
  decodeWord 0xFFFFFFF3#32 = some .cmac ∧ decodeWord 0x00000007#32 = none

/-- R85: decoding is total, and only bits [3:0] matter. -/
def Obligations.DecodeReadsOnlyTheOpField : Prop :=
  ∀ (hi : BitVec 28) (op : BitVec 4), decodeWord (hi ++ op) =
    if op = 0#4 then some .nop
    else if op = 1#4 then some .aesEnc
    else if op = 2#4 then some .aesDec
    else if op = 3#4 then some .cmac
    else if op = 4#4 then some .micData
    else if op = 5#4 then some .ctrXor
    else none

/-- R86: a word selects the row whose match value its masked value equals. -/
def Obligations.WordSelectsTheRowOfItsMaskedValue : Prop :=
  ∀ (v : Word) (i : Instr), decodeWord v = some i ↔ v &&& 0x0000000F#32 = encode i

/-- R80, R85: the bytes of an encoded command, with any reserved bits, decode to that command, and the
bytes after them are left. -/
def Obligations.DecodeUndoesEncodeUnderAnyReservedBits : Prop :=
  ∀ (i : Instr) (hi : BitVec 28) (rest : List Byte), i.wf = true →
    decode ((Quad.ofWord (encode i ||| hi.setWidth 32 <<< 4)).toList ++ rest) = .ok (i, rest)

/-- R25, R29: every register is found at its offset, and the aligned offsets with no register are the
reserved ones. -/
def Obligations.RegisterMapCoversTheWindow : Prop :=
  (∀ r : Reg, regAt r.offset = some r ∧ r.offset % 4 = 0 ∧ r.offset < 512) ∧
  (∀ o, o < 512 → o % 4 = 0 → (regAt o = none ↔ reservedOffset o))

/-! ## Byte order -/

/-- R56, R16: word `w` of a string has byte `4w+j` in bits `8j+7..8j`, and packing loses nothing; with the
rule's own example. -/
def Obligations.PackingPutsTheFirstByteLowest : Prop :=
  (∀ q : Quad, q.toWord.toNat =
    q.b0.toNat + 256 * q.b1.toNat + 65536 * q.b2.toNat + 16777216 * q.b3.toNat) ∧
  (∀ q : Quad, Quad.ofWord q.toWord = q) ∧ (∀ v : Word, (Quad.ofWord v).toWord = v) ∧
  Quad.toWord ⟨0x2b, 0x7e, 0x15, 0x16⟩ = 0x16157E2B#32

/-! ## Reads -/

/-- R61: what a legal read returns, register by register, and that it changes nothing else. An unwritten
byte of an MBUF word may read as anything (R169), so the clause speaks of the written ones. -/
def Obligations.LegalReadReturnsTheRegister : Prop :=
  ∀ (s : State) (o : Nat) (rest : List Input), o < 512 → o % 4 = 0 → s.readsAt o rest →
    ∃ v : Word, step s = .next (s.answered rest v) ∧
      (o = 0x000 → v = 0x4C434201#32) ∧
      (o = 0x004 → v = if s.ie then 1 else 0) ∧
      (o = 0x008 → v = s.lastop.setWidth 32) ∧
      (o = 0x00C → v.getLsbD 0 = s.busy ∧ v.getLsbD 1 = s.done ∧ v.getLsbD 2 = s.err ∧
        v.extractLsb' 8 4 = s.errcode ∧ v.extractLsb' 3 5 = 0 ∧ v.extractLsb' 12 20 = 0) ∧
      (o = 0x010 → v = s.len.setWidth 32) ∧
      (o = 0x014 → v.getLsbD 0 = s.dir ∧ v.extractLsb' 8 8 = s.b0len ∧
        v.extractLsb' 1 7 = 0 ∧ v.extractLsb' 16 16 = 0) ∧
      (o = 0x018 → v = s.devaddr) ∧
      (o = 0x01C → v = s.fcnt) ∧
      (o = 0x020 → v = s.mic) ∧
      (∀ w : Fin 4, o = 0x030 + 4 * w.val → v = 0) ∧
      (∀ w : Fin 4, o = 0x040 + 4 * w.val → v = (s.din.quad w).toWord) ∧
      (∀ w : Fin 4, o = 0x050 + 4 * w.val → v = (s.dout.quad w).toWord) ∧
      (∀ w : Fin 64, o = 0x100 + 4 * w.val → ∀ (j : Fin 4) (b : Byte),
        s.mbuf.read (4 * w.val + j.val) = some b → v.extractLsb' (8 * j.val) 8 = b) ∧
      (reservedOffset o → v = 0)

/-- R65: a read repeated at once returns the same word, unwritten MBUF bytes included. For those it is
the model's reading of "Reads are idempotent" (log 4). -/
def Obligations.ARepeatedReadAgrees : Prop :=
  ∀ (s : State) (o : Nat) (rest : List Input), o < 512 → o % 4 = 0 →
    s.readsAt o (.access (.read (Config.lcbBase + o) 4) :: rest) →
    ∃ v t, step s = .next t ∧ t.reply = .data v ∧ step t = .next (s.answered rest v)

/-! ## Writes -/

/-- R34: a STATUS write clears the flags whose bits are 1, in either phase, and nothing else; a cleared
DONE lasts only until a completion sets it again. -/
def Obligations.StatusWriteClearsTheFlagsItNames : Prop :=
  ∀ (s : State) (v : Word) (rest : List Input), s.writesAt 0x00C v rest →
    ∃ t : State, step s = .next t ∧
      t = { s.acked rest with
        done := s.done && !v.getLsbD 1
        err := s.err && !v.getLsbD 2
        errcode := if v.getLsbD 2 then 0#4 else s.errcode } ∧
      ∀ i : Instr, ∃ u, exec i t = .next u ∧ u.done = true

/-- R27, R92: while BUSY, a write of an operand register changes nothing but ERR and ERRCODE (so LASTOP,
the operands and the command in progress stay), ends on the bus without an error, and every operand
register reads as it does while IDLE. -/
def Obligations.OperandWriteWhileBusyIsRefused : Prop :=
  ∀ (s : State) (r : Reg), s.busy = true →
    (r = .cmd ∨ r = .len ∨ r = .frame ∨ r = .devaddr ∨ r = .fcnt ∨ (∃ w, r = .key w) ∨
      (∃ w, r = .din w) ∨ (∃ w, r = .mbuf w)) →
    (∀ (v : Word) (rest : List Input), s.writesAt r.offset v rest →
      step s = .next { s.acked rest with err := true, errcode := 3#4 }) ∧
    (∀ rest : List Input, s.readsAt r.offset rest →
      step s = .next (s.answered rest (State.readReg { s with busy := false } r)))

/-- R28: CTRL and STATUS writes act in either phase; writes to ID, MIC, DOUT and reserved offsets are
ignored in either phase, with no error. -/
def Obligations.WritesThatAreNeverRefused : Prop :=
  ∀ (s : State) (v : Word) (rest : List Input),
    (s.writesAt 0x004 v rest → step s = .next { s.acked rest with ie := v.getLsbD 0 }) ∧
    (s.writesAt 0x00C v rest → step s = .next ((s.acked rest).writeStatus v)) ∧
    (∀ o, (o = 0x000 ∨ o = 0x020 ∨ (∃ w : Fin 4, o = 0x050 + 4 * w.val) ∨ reservedOffset o) →
      s.writesAt o v rest → step s = .next (s.acked rest))

/-- R29: a reserved offset reads zero and ignores writes, and neither raises an error. -/
def Obligations.ReservedOffsetsReadZeroAndIgnoreWrites : Prop :=
  ∀ (s : State) (o : Nat) (rest : List Input), reservedOffset o →
    (s.readsAt o rest → step s = .next (s.answered rest 0)) ∧
    (∀ v : Word, s.writesAt o v rest → step s = .next (s.acked rest))

/-- R62: while IDLE, a write stores the defined fields of its register and nothing else, and an MBUF word
write makes its four bytes written. -/
def Obligations.OperandWriteWhileIdleStores : Prop :=
  ∀ (s : State) (v : Word) (rest : List Input), s.busy = false →
    (s.writesAt 0x010 v rest → step s = .next { s.acked rest with len := v.extractLsb' 0 9 }) ∧
    (s.writesAt 0x014 v rest →
      step s = .next { s.acked rest with dir := v.getLsbD 0, b0len := v.extractLsb' 8 8 }) ∧
    (s.writesAt 0x018 v rest → step s = .next { s.acked rest with devaddr := v }) ∧
    (s.writesAt 0x01C v rest → step s = .next { s.acked rest with fcnt := v }) ∧
    (∀ w : Fin 4, s.writesAt (0x030 + 4 * w.val) v rest → ∃ k : Block,
      step s = .next { s.acked rest with key := k } ∧ ∀ w' : Fin 4, k.quad w' =
        if w' = w then ⟨v.extractLsb' 0 8, v.extractLsb' 8 8, v.extractLsb' 16 8, v.extractLsb' 24 8⟩
        else s.key.quad w') ∧
    (∀ w : Fin 4, s.writesAt (0x040 + 4 * w.val) v rest → ∃ d : Block,
      step s = .next { s.acked rest with din := d } ∧ ∀ w' : Fin 4, d.quad w' =
        if w' = w then ⟨v.extractLsb' 0 8, v.extractLsb' 8 8, v.extractLsb' 16 8, v.extractLsb' 24 8⟩
        else s.din.quad w') ∧
    (∀ w : Fin 64, s.writesAt (0x100 + 4 * w.val) v rest → ∃ m : Memory,
      step s = .next { s.acked rest with mbuf := m } ∧ ∀ k, m.read k =
        if 4 * w.val ≤ k ∧ k < 4 * w.val + 4 then some (v.extractLsb' (8 * (k - 4 * w.val)) 8)
        else s.mbuf.read k)

/-! ## The command lifecycle -/

/-- R93, R94: a CMD write while IDLE records OP, clears the flags, and in the same step rejects a reserved
OP with BAD_OP, else a too long message with BAD_LEN, else starts the command. -/
def Obligations.CmdWriteWhileIdleIsValidated : Prop :=
  ∀ (s : State) (v : Word) (rest : List Input), s.busy = false → s.writesAt 0x008 v rest →
    step s =
      if 6 ≤ v.toNat % 16 then
        .next { s.acked rest with
          lastop := v.extractLsb' 0 4, done := true, err := true, errcode := 1#4 }
      else if 3 ≤ v.toNat % 16 ∧ 256 < s.len.toNat then
        .next { s.acked rest with
          lastop := v.extractLsb' 0 4, done := true, err := true, errcode := 2#4 }
      else
        .next { s.acked rest with
          lastop := v.extractLsb' 0 4, done := false, err := false, errcode := 0#4, busy := true }

/-- R98's example: a CMD write of 0x7 right after reset leaves STATUS at 0x106 and CMD at 7. -/
def Obligations.ReservedOpExampleFromReset : Prop :=
  ∃ t, step { State.reset with inputs := [.access (.write (Config.lcbBase + 0x008) 4 0x7#32)] } = .next t ∧
    t.statusWord = 0x00000106#32 ∧ t.readReg .cmd = 0x00000007#32

/-- R50, R95, R102: while BUSY, the engine's turn, named by the schedule or left when it has ended, is
`exec` of the command that the decoder reads from LASTOP. -/
def Obligations.StepRunsTheDecodedCommand : Prop :=
  ∀ (s : State) (i : Instr), s.busy = true → decodeWord s.fetchWord = some i → i.wf = true →
    (s.inputs = [] → step s = exec i s) ∧
    (∀ rest, s.inputs = .engine :: rest → step s = exec i { s with inputs := rest })

/-- R102: the engine has no step while IDLE. The stop on a started reserved OP, which no run reaches, is
the model's own (log 9). -/
def Obligations.EngineTurnWithoutACommand : Prop :=
  ∀ s : State,
    (s.busy = false → (s.inputs = [] → step s = .next s) ∧
      (∀ rest, s.inputs = .engine :: rest → step s = .next { s with inputs := rest })) ∧
    (s.busy = true → 6 ≤ s.lastop.toNat → s.isEngineTurn = true →
      step s = .fault (.reservedOpStarted s.lastop))

/-! ## Completions: what each command writes, and that it writes nothing else -/

/-- R97, R95: NOP commits nothing. -/
def Obligations.NopCompletes : Prop :=
  ∀ s : State, exec .nop s = .next { s with busy := false, done := true, draws := s.draws + 1 }

/-- R104, R95: AES_ENC overwrites DOUT with the cipher of DIN under KEY, whatever LEN holds. -/
def Obligations.AesEncCompletes : Prop :=
  ∀ s : State, exec .aesEnc s =
    .next { s with dout := aesE s.key s.din, busy := false, done := true, draws := s.draws + 1 }

/-- R105, R95: AES_DEC overwrites DOUT with the inverse cipher of DIN under KEY, whatever LEN holds. -/
def Obligations.AesDecCompletes : Prop :=
  ∀ s : State, exec .aesDec s =
    .next { s with dout := aesD s.key s.din, busy := false, done := true, draws := s.draws + 1 }

/-- R126, R95: CMAC puts the tag of the message in DOUT and its first four bytes in MIC. -/
def Obligations.CmacCompletes : Prop :=
  ∀ (s : State) (m : List Byte), s.hasMessage m →
    exec .cmac s = .next { s with
      dout := cmacTag s.key m
      mic := (cmacTag s.key m).q0.toWord
      busy := false, done := true, draws := s.draws + 1 }

/-- R135, R136, R95: MIC_DATA puts the tag of B0 and the message in DOUT and its first four bytes in MIC. -/
def Obligations.MicDataCompletes : Prop :=
  ∀ (s : State) (m : List Byte), s.hasMessage m →
    ∃ t : Block, t = cmacTag s.key
        ([0x49, 0x00, 0x00, 0x00, 0x00, if s.dir then 0x01 else 0x00,
          s.devaddr.extractLsb' 0 8, s.devaddr.extractLsb' 8 8, s.devaddr.extractLsb' 16 8,
          s.devaddr.extractLsb' 24 8, s.fcnt.extractLsb' 0 8, s.fcnt.extractLsb' 8 8, 0x00, 0x00,
          0x00, s.b0len] ++ m) ∧
      exec .micData s = .next { s with
        dout := t, mic := t.q0.toWord, busy := false, done := true, draws := s.draws + 1 }

/-- R144, R145, R95: CTR_XOR changes each byte of `MBUF[0..n)` by its keystream byte, no byte at `n` or
above, and nothing else. -/
def Obligations.CtrXorCompletes : Prop :=
  ∀ (s : State) (m : List Byte), s.hasMessage m →
    ∃ mb : Memory,
      exec .ctrXor s = .next { s with mbuf := mb, busy := false, done := true, draws := s.draws + 1 } ∧
      (∀ k (h : k < m.length), mb.read k =
        some (m[k] ^^^ (aesE s.key (Block.ofList (s.counterBlock (k / 16 + 1)))).toList.getD (k % 16) 0)) ∧
      (∀ k, m.length ≤ k → mb.read k = s.mbuf.read k)

/-- R169, R95: over a message with an unwritten byte the commands still complete, write only what they
write, and no byte becomes written or unwritten. The tag and the bytes themselves are free values; that
MIC is cut from the same tag is the model's reading (log 2). -/
def Obligations.CommandsOverUnwrittenBytesComplete : Prop :=
  ∀ (s : State) (k : Nat), k < s.len.toNat → s.mbuf.read k = none →
    (∃ t : Block, exec .cmac s = .next { s with
      dout := t, mic := t.q0.toWord, busy := false, done := true, draws := s.draws + 1 }) ∧
    (∃ t : Block, exec .micData s = .next { s with
      dout := t, mic := t.q0.toWord, busy := false, done := true, draws := s.draws + 1 }) ∧
    (∃ mb : Memory, exec .ctrXor s = .next { s with
        mbuf := mb, busy := false, done := true, draws := s.draws + 1 } ∧
      (∀ j, (mb.read j).isSome = (s.mbuf.read j).isSome) ∧
      (∀ j, s.len.toNat ≤ j → mb.read j = s.mbuf.read j))

/-- R81, R99: the results of a command are a function of the operands the table of R81 lists: two states
that agree on those agree on the results, whatever else they hold. -/
def Obligations.ResultsDependOnlyOnTheListedOperands : Prop :=
  ∀ (s s' : State), s'.key = s.key →
    (s'.din = s.din → ∃ t t', exec .aesEnc s = .next t ∧ exec .aesEnc s' = .next t' ∧ t'.dout = t.dout) ∧
    (s'.din = s.din → ∃ t t', exec .aesDec s = .next t ∧ exec .aesDec s' = .next t' ∧ t'.dout = t.dout) ∧
    (∀ m, s.hasMessage m → s'.hasMessage m →
      (∃ t t', exec .cmac s = .next t ∧ exec .cmac s' = .next t' ∧ t'.dout = t.dout ∧ t'.mic = t.mic) ∧
      (s'.dir = s.dir → s'.devaddr = s.devaddr → s'.fcnt.extractLsb' 0 16 = s.fcnt.extractLsb' 0 16 →
        (s'.b0len = s.b0len →
          ∃ t t', exec .micData s = .next t ∧ exec .micData s' = .next t' ∧
            t'.dout = t.dout ∧ t'.mic = t.mic) ∧
        (∃ t t', exec .ctrXor s = .next t ∧ exec .ctrXor s' = .next t' ∧
          ∀ k, k < m.length → t'.mbuf.read k = t.mbuf.read k)))

/-! ## AES-128 -/

/-- R108: `xtime` as the rule gives it, and the field product as the one that commutes, distributes over
addition, has `{01}` as its unit and passes `xtime` through; so `{02}` multiplies by `xtime`. -/
def Obligations.FieldProductIsCommutativeAndDistributes : Prop :=
  (∀ a : Byte, (xtime a).toNat = (2 * a.toNat % 256) ^^^ (if 128 ≤ a.toNat then 0x1B else 0)) ∧
  (∀ a b : Byte, gmul a b = gmul b a) ∧
  (∀ a b c : Byte, gmul a (b ^^^ c) = gmul a b ^^^ gmul a c) ∧
  (∀ a b : Byte, gmul a (xtime b) = xtime (gmul a b)) ∧
  (∀ a : Byte, gmul a 0x02 = xtime a) ∧ (∀ a : Byte, gmul a 0x01 = a)

/-- R109: the two tables are the S-box by its definition (the affine map of the inverse in GF(2^8), zero
standing for its own inverse) and the inverse permutation. -/
def Obligations.SboxIsTheAffineMapOfTheInverse : Prop :=
  sbox 0x00 = sboxAffine 0x00 ∧
  (∀ a b : Byte, gmul a b = 0x01 → sbox a = sboxAffine b) ∧
  (∀ a : Byte, a ≠ 0x00 → ∃ b : Byte, gmul a b = 0x01) ∧
  (∀ a : Byte, invSbox (sbox a) = a) ∧ (∀ a : Byte, sbox (invSbox a) = a)

/-- R117: the expanded key satisfies the loop of the key expansion, starts with the key, and has the
rule's round key 10 for the rule's example key. -/
def Obligations.KeyExpansionFollowsItsLoop : Prop :=
  (∀ (k : Block) (i : Fin 4), keyWord k i.val = k.quad i) ∧
  (∀ (k : Block) (i : Nat), 4 ≤ i → i < 44 → keyWord k i = (keyWord k (i - 4)).xor
    (if i % 4 = 0 then
      ⟨sbox (keyWord k (i - 1)).b1 ^^^ rcon (i / 4), sbox (keyWord k (i - 1)).b2,
        sbox (keyWord k (i - 1)).b3, sbox (keyWord k (i - 1)).b0⟩
     else keyWord k (i - 1))) ∧
  roundKey ⟨⟨0x2b, 0x7e, 0x15, 0x16⟩, ⟨0x28, 0xae, 0xd2, 0xa6⟩, ⟨0xab, 0xf7, 0x15, 0x88⟩,
      ⟨0x09, 0xcf, 0x4f, 0x3c⟩⟩ 10 =
    ⟨⟨0xd0, 0x14, 0xf9, 0xa8⟩, ⟨0xc9, 0xee, 0x25, 0x89⟩, ⟨0xe1, 0x3f, 0x0c, 0xc8⟩,
      ⟨0xb6, 0x63, 0x0c, 0xa6⟩⟩

/-- R118: each round constant is `xtime` of the one before, from 0x01 on, and the ten of the table. -/
def Obligations.RoundConstants : Prop :=
  rcon 1 = 0x01 ∧ (∀ j, 1 ≤ j → rcon (j + 1) = xtime (rcon j)) ∧
  (List.range 10).map (fun j => rcon (j + 1)) =
    [0x01, 0x02, 0x04, 0x08, 0x10, 0x20, 0x40, 0x80, 0x1b, 0x36]

/-- R121: each inverse round step undoes its round step, and the other way round. -/
def Obligations.InverseRoundStepsUndoTheRoundSteps : Prop :=
  ∀ (k x : Block) (rnd : Nat),
    invSubBytes (subBytes x) = x ∧ subBytes (invSubBytes x) = x ∧
    invShiftRows (shiftRows x) = x ∧ shiftRows (invShiftRows x) = x ∧
    invMixColumns (mixColumns x) = x ∧ mixColumns (invMixColumns x) = x ∧
    addRoundKey k rnd (addRoundKey k rnd x) = x

/-- R121: the inverse cipher inverts the cipher under every key, on every block and both ways round, so
the cipher is a permutation of the blocks. -/
def Obligations.InverseCipherInvertsTheCipher : Prop :=
  (∀ k x : Block, aesD k (aesE k x) = x) ∧ (∀ k x : Block, aesE k (aesD k x) = x) ∧
  (∀ k : Block, Function.Bijective (aesE k))

/-- R105: an AES_DEC of an AES_ENC result under the same key returns the original block in DOUT. -/
def Obligations.AesDecReturnsWhatAesEncTook : Prop :=
  ∀ s : State, ∃ t, exec .aesEnc s = .next t ∧ ∀ t' : State, t'.key = s.key → t'.din = t.dout →
    ∃ u, exec .aesDec t' = .next u ∧ u.dout = s.din

/-! ## CMAC and the LoRaWAN blocks -/

/-- R124: doubling is a 128-bit left shift with the conditional exclusive-or of 0x87. -/
def Obligations.DoublingAsANumber : Prop :=
  ∀ x : Block, blockInt (dbl x) =
    (blockInt x * 2 % 2 ^ 128) ^^^ (if 2 ^ 127 ≤ blockInt x then 0x87 else 0)

/-- R123, R125, R127, R128, R129: the tag of whole blocks and a last part. A whole last block takes K1; a
rest of 0 to 15 bytes is padded with 0x80 and zeros and takes K2 (a rest of 0 bytes only as the empty
message). The chain starts from sixteen zero bytes. -/
def Obligations.CmacChainsItsBlocks : Prop :=
  ∀ (k : Block) (bs : List Block),
    (∀ b : Block, cmacTag k (bs.flatMap Block.toList ++ b.toList) =
      aesE k ((bs.foldl (fun x y => aesE k (x.xor y)) Block.zero).xor
        (b.xor (dbl (aesE k Block.zero))))) ∧
    (∀ (rest : List Byte) (p : Block), rest.length < 16 → (rest = [] → bs = []) →
      p.toList = rest ++ [0x80] ++ List.replicate (15 - rest.length) 0x00 →
      cmacTag k (bs.flatMap Block.toList ++ rest) =
        aesE k ((bs.foldl (fun x y => aesE k (x.xor y)) Block.zero).xor
          (p.xor (dbl (dbl (aesE k Block.zero))))))

/-- R133, R142: the sixteen bytes of B0 and of Ai by position. -/
def Obligations.FrameBlocksByPosition : Prop :=
  ∀ (s : State) (i : Nat),
    s.b0 = [0x49, 0x00, 0x00, 0x00, 0x00, if s.dir then 0x01 else 0x00,
      s.devaddr.extractLsb' 0 8, s.devaddr.extractLsb' 8 8, s.devaddr.extractLsb' 16 8,
      s.devaddr.extractLsb' 24 8, s.fcnt.extractLsb' 0 8, s.fcnt.extractLsb' 8 8, 0x00, 0x00,
      0x00, s.b0len] ∧
    s.counterBlock i = [0x01, 0x00, 0x00, 0x00, 0x00, if s.dir then 0x01 else 0x00,
      s.devaddr.extractLsb' 0 8, s.devaddr.extractLsb' 8 8, s.devaddr.extractLsb' 16 8,
      s.devaddr.extractLsb' 24 8, s.fcnt.extractLsb' 0 8, s.fcnt.extractLsb' 8 8, 0x00, 0x00,
      0x00, BitVec.ofNat 8 i]

/-- R147: for fixed KEY, DIR, DEVADDR, FCNT[15:0] and length, a second CTR_XOR restores the buffer. -/
def Obligations.CtrXorIsItsOwnInverse : Prop :=
  ∀ (s : State) (m : List Byte), s.hasMessage m →
    ∃ t, exec .ctrXor s = .next t ∧ ∀ t' : State, t'.key = s.key → t'.dir = s.dir →
      t'.devaddr = s.devaddr → t'.fcnt.extractLsb' 0 16 = s.fcnt.extractLsb' 0 16 →
      t'.len = s.len → t'.mbuf = t.mbuf →
      ∃ u, exec .ctrXor t' = .next u ∧ ∀ k, u.mbuf.read k = s.mbuf.read k

/-! ## Errors, interrupt, reset -/

/-- R60, R102: a host access is flagged as a fault of the host exactly where it lies in the window and is
not four bytes wide at an aligned offset; then the bus answers with the error response and nothing else
changes. That the run goes on is the model's choice between the two treatments of U2 (log 5); that an access
across the window's edge lies in the window where its first byte does is the model's choice too (log 6). -/
def Obligations.IllegalAccessIsFlaggedAndChangesNothing : Prop :=
  ∀ (s : State) (a : HostAccess) (rest : List Input), s.inputs = .access a :: rest →
    ∃ t, step s = .next t ∧
      (t.hostFault = true ↔ Config.lcbBase ≤ a.addr ∧ a.addr < Config.lcbBase + 512 ∧
        ¬ (a.width = 4 ∧ (a.addr - Config.lcbBase) % 4 = 0)) ∧
      (t.hostFault = true → t = { s with inputs := rest, reply := .busError a.addr })

/-- R59: the block decodes no address outside its window. That such an access takes a turn and is
answered by no one is the model's choice (log 6). -/
def Obligations.AccessOutsideTheWindowIsNotTheBlocks : Prop :=
  ∀ (s : State) (a : HostAccess) (rest : List Input), s.inputs = .access a :: rest →
    (a.addr < Config.lcbBase ∨ Config.lcbBase + 512 ≤ a.addr) →
    step s = .next { s with inputs := rest, reply := .notSelected }

/-- R46, R154, R159: the IRQ level through every event that can move it. -/
def Obligations.IrqThroughItsEvents : Prop :=
  ∀ s : State,
    (s.busy = true → s.isEngineTurn = true → s.lastop.toNat < 6 →
      ∃ t, step s = .next t ∧ t.irq = s.ie) ∧
    (∀ v rest, s.writesAt 0x00C v rest → ∃ t, step s = .next t ∧ t.irq = (s.irq && !v.getLsbD 1)) ∧
    (∀ v rest, s.writesAt 0x004 v rest → ∃ t, step s = .next t ∧ t.irq = (v.getLsbD 0 && s.done)) ∧
    (∀ v rest, s.writesAt 0x008 v rest → s.busy = false →
      ∃ t, step s = .next t ∧ t.irq = (s.ie && !t.busy)) ∧
    (∀ v rest, s.writesAt 0x008 v rest → s.busy = true → ∃ t, step s = .next t ∧ t.irq = s.irq) ∧
    (s.isResetTurn = true → ∃ t, step s = .next t ∧ t.irq = false)

/-- R168, R169: reset from any state. -/
def Obligations.ResetRestoresEveryComponent : Prop :=
  ∀ (s : State) (rest : List Input), s.inputs = .reset :: rest →
    ∃ t, step s = .next t ∧ t.ie = false ∧ t.lastop = 0 ∧ t.busy = false ∧ t.done = false ∧
      t.err = false ∧ t.errcode = 0 ∧ t.len = 0 ∧ t.dir = false ∧ t.b0len = 0 ∧ t.devaddr = 0 ∧
      t.fcnt = 0 ∧ t.mic = 0 ∧ t.key.toList = List.replicate 16 0x00 ∧
      t.din.toList = List.replicate 16 0x00 ∧ t.dout.toList = List.replicate 16 0x00 ∧
      (∀ k, t.mbuf.read k = none) ∧ t.readReg .id = 0x4C434201#32 ∧ t.irq = false

/-! ## Whole-machine rules -/

/-- The invariant (R35, R93, R94, R44) holds at reset. -/
def Obligations.InvariantHoldsAtReset : Prop := State.reset.inv = true

/-- Every step keeps the invariant: ERRCODE is one of 0 to 3 and 0 exactly while ERR is 0 (R35, U7); a
started command is one of the six, has passed the length check, and DONE is 0 (R93, R94); the message
buffer is in canonical form below 256 (R44). -/
def Obligations.StepKeepsTheInvariant : Prop :=
  ∀ s t : State, s.inv = true → step s = .next t → t.inv = true

/-- R94, R150: from a state with the invariant the block never stops. -/
def Obligations.StepNeverStops : Prop :=
  ∀ s : State, s.inv = true → ∃ t, step s = .next t

/-- R45, R48, R81: each component changes only at the hand of its writer: the host's registers by a host
write while IDLE (CTRL in either phase), the results by a completion of a command that writes them, BUSY by a
CMD write while IDLE or a completion, DONE also by a STATUS write, and ERR and ERRCODE by a CMD write while
IDLE, a STATUS write or a refused operand write. -/
def Obligations.OnlyItsWriterChangesAComponent : Prop :=
  ∀ s t : State, step s = .next t → s.isResetTurn = false →
    (t.ie ≠ s.ie → ∃ v, s.nextWrite .ctrl = some v) ∧
    (t.lastop ≠ s.lastop → s.busy = false ∧ ∃ v, s.nextWrite .cmd = some v) ∧
    (t.len ≠ s.len → s.busy = false ∧ ∃ v, s.nextWrite .len = some v) ∧
    (t.dir ≠ s.dir ∨ t.b0len ≠ s.b0len → s.busy = false ∧ ∃ v, s.nextWrite .frame = some v) ∧
    (t.devaddr ≠ s.devaddr → s.busy = false ∧ ∃ v, s.nextWrite .devaddr = some v) ∧
    (t.fcnt ≠ s.fcnt → s.busy = false ∧ ∃ v, s.nextWrite .fcnt = some v) ∧
    (t.key ≠ s.key → s.busy = false ∧ ∃ w v, s.nextWrite (.key w) = some v) ∧
    (t.din ≠ s.din → s.busy = false ∧ ∃ w v, s.nextWrite (.din w) = some v) ∧
    (t.dout ≠ s.dout → s.busy = true ∧ s.isEngineTurn = true ∧
      1 ≤ s.lastop.toNat ∧ s.lastop.toNat ≤ 4) ∧
    (t.mic ≠ s.mic → s.busy = true ∧ s.isEngineTurn = true ∧
      3 ≤ s.lastop.toNat ∧ s.lastop.toNat ≤ 4) ∧
    (t.mbuf ≠ s.mbuf → (s.busy = true ∧ s.isEngineTurn = true ∧ s.lastop = 5#4) ∨
      (s.busy = false ∧ ∃ w v, s.nextWrite (.mbuf w) = some v)) ∧
    (t.busy ≠ s.busy → (s.busy = false ∧ ∃ v, s.nextWrite .cmd = some v) ∨
      (s.busy = true ∧ s.isEngineTurn = true)) ∧
    (t.done ≠ s.done → (∃ v, s.nextWrite .status = some v ∧ v.getLsbD 1 = true ∧ t.done = false) ∨
      (s.busy = false ∧ ∃ v, s.nextWrite .cmd = some v) ∨
      (s.busy = true ∧ s.isEngineTurn = true ∧ t.done = true)) ∧
    (t.err ≠ s.err ∨ t.errcode ≠ s.errcode →
      (∃ v, s.nextWrite .status = some v ∧ v.getLsbD 2 = true ∧ t.err = false ∧ t.errcode = 0#4) ∨
      (s.busy = false ∧ ∃ v, s.nextWrite .cmd = some v) ∨
      (s.busy = true ∧ t.err = true ∧ t.errcode = 3#4 ∧
        ∃ r v, r.isOperand = true ∧ s.nextWrite r = some v))

/-- R169: an unwritten byte becomes written only by a host write to its word while IDLE, and only reset
makes a written byte unwritten. -/
def Obligations.OnlyAHostWriteMakesAByteWritten : Prop :=
  ∀ (s t : State) (k : Nat), step s = .next t →
    (s.mbuf.read k = none → t.mbuf.read k ≠ none →
      s.busy = false ∧ ∃ (w : Fin 64) (v : Word), w.val = k / 4 ∧ s.nextWrite (.mbuf w) = some v) ∧
    (s.mbuf.read k ≠ none → t.mbuf.read k = none → s.isResetTurn = true)

/-- R45, R94, R96, R101: BUSY is set only by an accepted CMD write of a command, and cleared only by the
completion, which sets DONE, or by reset. -/
def Obligations.BusyIsSetAndClearedOnlyByTheLifecycle : Prop :=
  ∀ s t : State, step s = .next t →
    (s.busy = false → t.busy = true → ∃ v i, s.nextWrite .cmd = some v ∧ decodeWord v = some i) ∧
    (s.busy = true → t.busy = false → s.isResetTurn = true ∨ (s.isEngineTurn = true ∧ t.done = true))

/-- R70, R71, R172: while a command runs, no host access changes its operands, LASTOP or BUSY, or shows a
result early. -/
def Obligations.AccessesWhileBusyLeaveOperandsAndResults : Prop :=
  ∀ (s : State) (accs : List HostAccess), s.busy = true →
    ∃ ie done err code draws reply, s.afterAccesses accs = { s with
      ie := ie, done := done, err := err, errcode := code, draws := draws, reply := reply }

/-- R70, R95, R99: an accepted CMD write, any host accesses after it, and then the engine's turn: the
command has completed, and its results are those of the operands at the acceptance. -/
def Obligations.AcceptedCommandYieldsTheResultOfItsAcceptance : Prop :=
  ∀ (s : State) (v : Word) (i : Instr) (accs : List HostAccess) (rest : List Input),
    s.busy = false → decodeWord v = some i →
    (i.checksLen = true → s.len.toNat ≤ 256 ∧ s.message.isSome = true) →
    s.writesAt 0x008 v (accs.map Input.access ++ .engine :: rest) →
    ∃ t u, Host.Core.run Sys2Proof.core (accs.length + 2) s = .next t ∧ exec i s = .next u ∧
      t.dout = u.dout ∧ t.mic = u.mic ∧ t.mbuf = u.mbuf ∧
      t.busy = false ∧ t.done = true ∧ t.lastop = v.extractLsb' 0 4 ∧ t.inputs = rest ∧
      t.key = s.key ∧ t.din = s.din ∧ t.len = s.len ∧ t.dir = s.dir ∧ t.b0len = s.b0len ∧
      t.devaddr = s.devaddr ∧ t.fcnt = s.fcnt

/-- R96, R155: a started command completes within one step more than the inputs left, if none of them is
reset. That an ended schedule leaves the turn to the engine is the model's form of the fairness of R96
(log 7). -/
def Obligations.AStartedCommandCompletes : Prop :=
  ∀ s : State, s.busy = true → s.lastop.toNat < 6 → Input.reset ∉ s.inputs →
    ∃ k t, k ≤ s.inputs.length + 1 ∧ Host.Core.run Sys2Proof.core k s = .next t ∧
      t.busy = false ∧ t.done = true

/-- R41, R68: no sequence of host accesses tells two keys apart: every component but the key, the bus
response among them, comes out the same. For a read of an unwritten MBUF byte, whose value R169 leaves open,
this is the model's choice: its free value depends on the draw and the index alone (logs 1, 4). -/
def Obligations.NoHostAccessRevealsTheKey : Prop :=
  ∀ (s : State) (k : Block) (accs : List HostAccess), ∃ k' : Block,
    State.afterAccesses { s with key := k } accs = { s.afterAccesses accs with key := k' }

/-! ## Host scripts -/

/-- R90: `LDKEY` leaves KEY at its sixteen bytes and changes nothing else of the block. -/
def Obligations.LdKeyLoadsTheKey : Prop :=
  ∀ (s : State) (x : Block), s.busy = false →
    s.afterAccesses (scriptAccesses (ldKey x)) =
      { s with key := x, draws := s.draws + 4, reply := .written }

/-- R90, R176: `LDBUF` of up to 256 bytes leaves the message at those bytes, zeros up to the end of the
last word, and no other byte of MBUF changed. -/
def Obligations.LdBufLoadsTheMessage : Prop :=
  ∀ (s : State) (bytes : List Byte), s.busy = false → bytes.length ≤ 256 →
    ∃ (mb : Memory) (n : BitVec 9) (d : Nat),
      s.afterAccesses (scriptAccesses (ldBuf bytes)) =
        { s with mbuf := mb, len := n, draws := d, reply := .written } ∧
      n.toNat = bytes.length ∧
      (∀ k, k < bytes.length → mb.read k = bytes[k]?) ∧
      (∀ k, bytes.length ≤ k → k < 4 * ((bytes.length + 3) / 4) → mb.read k = some 0x00) ∧
      (∀ k, 4 * ((bytes.length + 3) / 4) ≤ k → mb.read k = s.mbuf.read k)

/-- R89's example: `WR CMD, 0x1` encodes as `W 008 00000001`. -/
def Obligations.ScriptWriteEncodesAsATransaction : Prop :=
  (Stmt.transaction (.wr .cmd 0x1#32)).map Transaction.text = some "W 008 00000001" ∧
  parseLine "WR CMD, 0x1" = some [.wr .cmd 0x1#32]

/-- R89, R88: a `POLL` performs one `R off` a turn of the host, staying where it is while the value read
does not match and going on where it does; so `k` reads that do not match have encoded as `k` transactions.
That reads of an MBUF word with an unwritten byte, which R169 leaves open, all match or all do not is the
model's choice (log 4). -/
def Obligations.PollEncodesAsItsRepeatedReads : Prop :=
  ∀ (h : ScriptRun) (r : Reg) (m v : Word), h.prog[h.pc]? = some (.poll r m v) →
    (h.block.readReg r &&& m ≠ v → ∀ k : Nat, ∃ h', h.run (List.replicate k .host) = some h' ∧
      h'.pc = h.pc ∧ h'.prog = h.prog ∧ h'.sent = h.sent ++ (Stmt.poll r m v).encoding k) ∧
    (h.block.readReg r &&& m = v →
      h.hostTurn.pc = h.pc + 1 ∧ h.hostTurn.sent = h.sent ++ (Stmt.poll r m v).encoding 1)

/-- R89, R90, R155: `RUN` of a command that starts encodes as its CMD write and one read of STATUS for each
read of its `POLL`, however many fall before the completion, and ends with the command completed. -/
def Obligations.RunEncodesAsItsWriteAndPolls : Prop :=
  ∀ (s : State) (i : Instr) (k : Nat), s.busy = false → (i.checksLen = true → s.len.toNat ≤ 256) →
    ∃ h, (ScriptRun.start s (runCommand i)).run (.host :: (List.replicate k .host ++ [.engine, .host])) =
        some h ∧
      h.pc = 2 ∧ h.sent = .w 0x008 (encode i) :: (Stmt.poll .status 0x1 0x0).encoding (k + 1) ∧
      h.block.busy = false ∧ h.block.done = true

/-! ## The rounds of AES-128 -/

/-- R112 to R116: the round steps byte by byte, `s[r][c]` being byte `r + 4c` (R107). -/
def Obligations.RoundStepsByPosition : Prop :=
  ∀ (k s : Block) (rnd : Nat) (r c : Fin 4),
    cell (subBytes s) r c = sbox (cell s r c) ∧
    cell (invSubBytes s) r c = invSbox (cell s r c) ∧
    cell (shiftRows s) r c = cell s r ((c + r) % 4) ∧
    cell (invShiftRows s) r ((c + r) % 4) = cell s r c ∧
    cell (mixColumns s) 0 c =
      gmul 0x02 (cell s 0 c) ^^^ gmul 0x03 (cell s 1 c) ^^^ cell s 2 c ^^^ cell s 3 c ∧
    cell (mixColumns s) 1 c =
      cell s 0 c ^^^ gmul 0x02 (cell s 1 c) ^^^ gmul 0x03 (cell s 2 c) ^^^ cell s 3 c ∧
    cell (mixColumns s) 2 c =
      cell s 0 c ^^^ cell s 1 c ^^^ gmul 0x02 (cell s 2 c) ^^^ gmul 0x03 (cell s 3 c) ∧
    cell (mixColumns s) 3 c =
      gmul 0x03 (cell s 0 c) ^^^ cell s 1 c ^^^ cell s 2 c ^^^ gmul 0x02 (cell s 3 c) ∧
    cell (invMixColumns s) 0 c = gmul 0x0e (cell s 0 c) ^^^ gmul 0x0b (cell s 1 c) ^^^
      gmul 0x0d (cell s 2 c) ^^^ gmul 0x09 (cell s 3 c) ∧
    cell (invMixColumns s) 1 c = gmul 0x09 (cell s 0 c) ^^^ gmul 0x0e (cell s 1 c) ^^^
      gmul 0x0b (cell s 2 c) ^^^ gmul 0x0d (cell s 3 c) ∧
    cell (invMixColumns s) 2 c = gmul 0x0d (cell s 0 c) ^^^ gmul 0x09 (cell s 1 c) ^^^
      gmul 0x0e (cell s 2 c) ^^^ gmul 0x0b (cell s 3 c) ∧
    cell (invMixColumns s) 3 c = gmul 0x0b (cell s 0 c) ^^^ gmul 0x0d (cell s 1 c) ^^^
      gmul 0x09 (cell s 2 c) ^^^ gmul 0x0e (cell s 3 c) ∧
    cell (addRoundKey k rnd s) r c = cell s r c ^^^ (keyWord k (4 * rnd + c)).toList.getD r 0 ∧
    (roundKey k rnd).toList = (keyWord k (4 * rnd)).toList ++ (keyWord k (4 * rnd + 1)).toList ++
      (keyWord k (4 * rnd + 2)).toList ++ (keyWord k (4 * rnd + 3)).toList

/-- R119, R120: the cipher and the inverse cipher are their ten rounds, in the rules' order. -/
def Obligations.CiphersAreTheirRounds : Prop :=
  ∀ k x : Block,
    aesE k x = addRoundKey k 10 (shiftRows (subBytes
      ([1, 2, 3, 4, 5, 6, 7, 8, 9].foldl
        (fun s rnd => addRoundKey k rnd (mixColumns (shiftRows (subBytes s)))) (addRoundKey k 0 x)))) ∧
    aesD k x = addRoundKey k 0 (invSubBytes (invShiftRows
      ([9, 8, 7, 6, 5, 4, 3, 2, 1].foldl
        (fun s rnd => invMixColumns (addRoundKey k rnd (invSubBytes (invShiftRows s)))) (addRoundKey k 10 x))))
end

