-- ==== Sys2Proof/Laws/Memory.lean ====
section
/-! SUPPORT. The laws of the message buffer: reading after writing, and that every memory operation keeps
the canonical form. -/

namespace Sys2Proof.Machine

/-! ## One byte -/

theorem read_write_same (m : Memory) (k : Nat) (b : Byte) : (m.write k b).read k = some b := by
  induction m with
  | nil => simp [Memory.write, Memory.read]
  | cons c m ih =>
    simp only [Memory.write]
    split
    · simp [Memory.read]
    · split
      · simp [Memory.read]
      · rename_i h1 h2
        simp only [Memory.read]
        rw [if_neg (fun h => h2 h.symm)]
        exact ih

theorem read_write_other (m : Memory) {k j : Nat} (b : Byte) (h : j ≠ k) :
    (m.write k b).read j = m.read j := by
  induction m with
  | nil => simp [Memory.write, Memory.read, Ne.symm h]
  | cons c m ih =>
    simp only [Memory.write]
    split
    · simp [Memory.read, Ne.symm h]
    · split
      · rename_i h1 h2
        simp [Memory.read, ← h2, Ne.symm h]
      · simp only [Memory.read, ih]

/-- What one stored byte does to every read. -/
theorem read_write (m : Memory) (k j : Nat) (b : Byte) :
    (m.write k b).read j = if j = k then some b else m.read j := by
  split
  · rename_i h; rw [h, read_write_same]
  · rename_i h; exact read_write_other m b h

/-! ## Consecutive bytes -/

/-- What storing consecutive bytes does to every read. -/
theorem read_writeBytes (l : List Byte) (m : Memory) (k j : Nat) :
    (m.writeBytes k l).read j =
      if k ≤ j ∧ j < k + l.length then l[j - k]? else m.read j := by
  induction l generalizing m k with
  | nil =>
    rw [if_neg (by simp only [List.length_nil]; omega)]
    rfl
  | cons b bs ih =>
    simp only [Memory.writeBytes, ih, read_write, List.length_cons]
    by_cases hj : j = k
    · subst hj
      simp
    · by_cases hin : k + 1 ≤ j ∧ j < k + 1 + bs.length
      · rw [if_pos hin, if_pos (by omega)]
        obtain ⟨d, hd⟩ : ∃ d, j - k = d + 1 := ⟨j - k - 1, by omega⟩
        rw [hd, show j - (k + 1) = d by omega, List.getElem?_cons_succ]
      · rw [if_neg hin, if_neg hj, if_neg (by omega)]

/-! ## The message -/

/-- The message is there exactly when each of its bytes is written, and then it is those bytes. -/
theorem slice_eq_some (m : Memory) (n : Nat) (l : List Byte) :
    m.slice n = some l ↔ l.length = n ∧ ∀ k, k < n → m.read k = l[k]? := by
  induction n generalizing l with
  | zero =>
    simp only [Memory.slice, Option.some.injEq, Nat.not_lt_zero, false_imp_iff, implies_true, and_true]
    exact ⟨fun h => by rw [← h]; rfl, fun h => (List.length_eq_zero_iff.mp h).symm⟩
  | succ n ih =>
    constructor
    · intro h
      simp only [Memory.slice] at h
      split at h
      · rename_i l' b hl hb
        obtain ⟨hlen, hread⟩ := (ih l').mp hl
        cases h
        refine ⟨by simp [hlen], fun k hk => ?_⟩
        rcases Nat.lt_succ_iff_lt_or_eq.mp hk with hk | hk
        · rw [hread k hk, List.getElem?_append_left (by omega)]
        · subst hk
          rw [hb, List.getElem?_append_right (by omega)]
          simp [hlen]
      · cases h
    · rintro ⟨hlen, hread⟩
      have hne : l ≠ [] := by intro h; simp [h] at hlen
      have hdrop : m.slice n = some l.dropLast := by
        refine (ih _).mpr ⟨by simp [hlen], fun k hk => ?_⟩
        rw [hread k (by omega), List.getElem?_dropLast, if_pos (by omega)]
      have hlast : m.read n = some (l.getLast hne) := by
        rw [hread n (by omega), List.getLast_eq_getElem, List.getElem?_eq_getElem (by omega)]
        simp [hlen]
      simp only [Memory.slice, hdrop, hlast, List.dropLast_append_getLast]

theorem slice_length {m : Memory} {n : Nat} {l : List Byte} (h : m.slice n = some l) : l.length = n :=
  ((slice_eq_some m n l).mp h).1

theorem slice_isSome (m : Memory) (n : Nat) :
    (m.slice n).isSome ↔ ∀ k, k < n → (m.read k).isSome := by
  induction n with
  | zero => simp [Memory.slice]
  | succ n ih =>
    simp only [Memory.slice]
    constructor
    · intro h k hk
      split at h
      · rename_i l b hl hb
        rcases Nat.lt_succ_iff_lt_or_eq.mp hk with hk | hk
        · exact ih.mp (by rw [hl]; rfl) k hk
        · rw [hk, hb]; rfl
      · cases h
    · intro h
      obtain ⟨l, hl⟩ := Option.isSome_iff_exists.mp (ih.mpr fun k hk => h k (by omega))
      obtain ⟨b, hb⟩ := Option.isSome_iff_exists.mp (h n (by omega))
      rw [hl, hb]
      rfl

/-- The message depends on its own bytes only. -/
theorem slice_congr {m m' : Memory} {n : Nat} (h : ∀ k, k < n → m.read k = m'.read k) :
    m.slice n = m'.slice n := by
  induction n with
  | zero => rfl
  | succ n ih =>
    simp only [Memory.slice]
    rw [ih fun k hk => h k (by omega), h n (by omega)]

/-! ## A CTR_XOR over an unwritten byte -/

theorem read_scrambleBelow (d n : Nat) (m : Memory) (k : Nat) :
    (scrambleBelow d n m).read k =
      if k < n then (m.read k).map (fun _ => Config.freeCipherByte d k) else m.read k := by
  induction m with
  | nil => simp [scrambleBelow, Memory.read]
  | cons c m ih =>
    simp only [scrambleBelow, List.map_cons] at ih ⊢
    by_cases hk : c.1 = k
    · subst hk
      by_cases hn : c.1 < n <;> simp [Memory.read, hn]
    · have hf : ¬ (if c.1 < n then (c.1, Config.freeCipherByte d c.1) else c).1 = k := by
        split <;> exact hk
      rw [Memory.read, if_neg hf, ih, Memory.read, if_neg hk]

/-! ## The canonical form -/

theorem risesAbove_mono {m : Memory} {lo lo' : Nat} (h : lo' ≤ lo) (hm : m.risesAbove lo = true) :
    m.risesAbove lo' = true := by
  cases m with
  | nil => rfl
  | cons c m =>
    simp only [Memory.risesAbove, Bool.and_eq_true, decide_eq_true_eq] at hm ⊢
    exact ⟨⟨by omega, hm.1.2⟩, hm.2⟩

theorem risesAbove_write {m : Memory} {lo k : Nat} (b : Byte) (hlo : lo ≤ k) (hk : k < Config.mbufBytes)
    (hm : m.risesAbove lo = true) : (m.write k b).risesAbove lo = true := by
  induction m generalizing lo with
  | nil => simp [Memory.write, Memory.risesAbove, hlo, hk]
  | cons c m ih =>
    simp only [Memory.risesAbove, Bool.and_eq_true, decide_eq_true_eq] at hm
    simp only [Memory.write]
    split
    · rename_i h
      simp only [Memory.risesAbove, Bool.and_eq_true, decide_eq_true_eq]
      exact ⟨⟨hlo, hk⟩, ⟨h, hm.1.2⟩, hm.2⟩
    · split
      · rename_i h
        simp only [Memory.risesAbove, Bool.and_eq_true, decide_eq_true_eq]
        exact ⟨⟨hlo, hk⟩, by rw [h]; exact hm.2⟩
      · rename_i h1 h2
        simp only [Memory.risesAbove, Bool.and_eq_true, decide_eq_true_eq]
        exact ⟨hm.1, ih (by omega) hm.2⟩

/-- Storing a byte below `MBUF_BYTES` keeps the canonical form. -/
theorem wf_write {m : Memory} {k : Nat} (b : Byte) (hk : k < Config.mbufBytes) (hm : m.wf = true) :
    (m.write k b).wf = true := risesAbove_write b (Nat.zero_le k) hk hm

/-- Storing bytes below `MBUF_BYTES` keeps the canonical form. -/
theorem wf_writeBytes (l : List Byte) {m : Memory} {k : Nat} (hk : k + l.length ≤ Config.mbufBytes)
    (hm : m.wf = true) : (m.writeBytes k l).wf = true := by
  induction l generalizing m k with
  | nil => exact hm
  | cons b bs ih =>
    rw [List.length_cons] at hk
    exact ih (by omega) (wf_write b (by omega) hm)

/-- A CTR_XOR over an unwritten byte keeps the canonical form. -/
theorem wf_scrambleBelow (d n : Nat) {m : Memory} (hm : m.wf = true) : (scrambleBelow d n m).wf = true := by
  have key : ∀ (m : Memory) lo, m.risesAbove lo = true → Memory.risesAbove lo (scrambleBelow d n m) = true := by
    intro m
    induction m with
    | nil => intro _ _; rfl
    | cons c m ih =>
      intro lo h
      simp only [Memory.risesAbove, Bool.and_eq_true, decide_eq_true_eq] at h
      have hc : (if c.1 < n then (c.1, Config.freeCipherByte d c.1) else c).1 = c.1 := by split <;> rfl
      have hrest := ih (c.1 + 1) h.2
      simp only [scrambleBelow] at hrest
      simp only [scrambleBelow, List.map_cons, Memory.risesAbove, Bool.and_eq_true, decide_eq_true_eq, hc]
      exact ⟨h.1, hrest⟩
  exact key m 0 hm

/-- In a buffer of canonical form only indexes below `MBUF_BYTES` are written. -/
theorem read_eq_none_of_wf {m : Memory} {k : Nat} (hm : m.wf = true) (hk : Config.mbufBytes ≤ k) :
    m.read k = none := by
  have key : ∀ (m : Memory) lo, m.risesAbove lo = true → m.read k = none := by
    intro m
    induction m with
    | nil => intro _ _; rfl
    | cons c m ih =>
      intro lo h
      simp only [Memory.risesAbove, Bool.and_eq_true, decide_eq_true_eq] at h
      rw [Memory.read, if_neg (by omega)]
      exact ih _ h.2
  exact key m 0 hm

theorem reset_mbuf_wf : State.reset.mbuf.wf = true := rfl

end Sys2Proof.Machine
end

