-- ==== Sys2Proof/Laws/State.lean ====
section
/-! SUPPORT. One lemma per field for each named update of the state, so that no later proof unfolds a
record update. -/

namespace Sys2Proof.Machine

/-! ## A STATUS write (R34). -/

@[simp] theorem writeStatus_ie (s : State) (v : Word) : (s.writeStatus v).ie = s.ie := rfl
@[simp] theorem writeStatus_lastop (s : State) (v : Word) : (s.writeStatus v).lastop = s.lastop := rfl
@[simp] theorem writeStatus_busy (s : State) (v : Word) : (s.writeStatus v).busy = s.busy := rfl
@[simp] theorem writeStatus_done (s : State) (v : Word) : (s.writeStatus v).done = doneAfterStatusWrite v s.done := rfl
@[simp] theorem writeStatus_err (s : State) (v : Word) : (s.writeStatus v).err = errAfterStatusWrite v s.err := rfl
@[simp] theorem writeStatus_errcode (s : State) (v : Word) : (s.writeStatus v).errcode = errcodeAfterStatusWrite v s.errcode := rfl
@[simp] theorem writeStatus_len (s : State) (v : Word) : (s.writeStatus v).len = s.len := rfl
@[simp] theorem writeStatus_dir (s : State) (v : Word) : (s.writeStatus v).dir = s.dir := rfl
@[simp] theorem writeStatus_b0len (s : State) (v : Word) : (s.writeStatus v).b0len = s.b0len := rfl
@[simp] theorem writeStatus_devaddr (s : State) (v : Word) : (s.writeStatus v).devaddr = s.devaddr := rfl
@[simp] theorem writeStatus_fcnt (s : State) (v : Word) : (s.writeStatus v).fcnt = s.fcnt := rfl
@[simp] theorem writeStatus_mic (s : State) (v : Word) : (s.writeStatus v).mic = s.mic := rfl
@[simp] theorem writeStatus_key (s : State) (v : Word) : (s.writeStatus v).key = s.key := rfl
@[simp] theorem writeStatus_din (s : State) (v : Word) : (s.writeStatus v).din = s.din := rfl
@[simp] theorem writeStatus_dout (s : State) (v : Word) : (s.writeStatus v).dout = s.dout := rfl
@[simp] theorem writeStatus_mbuf (s : State) (v : Word) : (s.writeStatus v).mbuf = s.mbuf := rfl
@[simp] theorem writeStatus_draws (s : State) (v : Word) : (s.writeStatus v).draws = s.draws := rfl
@[simp] theorem writeStatus_inputs (s : State) (v : Word) : (s.writeStatus v).inputs = s.inputs := rfl
@[simp] theorem writeStatus_reply (s : State) (v : Word) : (s.writeStatus v).reply = s.reply := rfl

/-! ## The flags at acceptance (R93). -/

@[simp] theorem clearFlags_ie (s : State) : (s.clearFlags).ie = s.ie := rfl
@[simp] theorem clearFlags_lastop (s : State) : (s.clearFlags).lastop = s.lastop := rfl
@[simp] theorem clearFlags_busy (s : State) : (s.clearFlags).busy = s.busy := rfl
@[simp] theorem clearFlags_done (s : State) : (s.clearFlags).done = false := rfl
@[simp] theorem clearFlags_err (s : State) : (s.clearFlags).err = false := rfl
@[simp] theorem clearFlags_errcode (s : State) : (s.clearFlags).errcode = errNone := rfl
@[simp] theorem clearFlags_len (s : State) : (s.clearFlags).len = s.len := rfl
@[simp] theorem clearFlags_dir (s : State) : (s.clearFlags).dir = s.dir := rfl
@[simp] theorem clearFlags_b0len (s : State) : (s.clearFlags).b0len = s.b0len := rfl
@[simp] theorem clearFlags_devaddr (s : State) : (s.clearFlags).devaddr = s.devaddr := rfl
@[simp] theorem clearFlags_fcnt (s : State) : (s.clearFlags).fcnt = s.fcnt := rfl
@[simp] theorem clearFlags_mic (s : State) : (s.clearFlags).mic = s.mic := rfl
@[simp] theorem clearFlags_key (s : State) : (s.clearFlags).key = s.key := rfl
@[simp] theorem clearFlags_din (s : State) : (s.clearFlags).din = s.din := rfl
@[simp] theorem clearFlags_dout (s : State) : (s.clearFlags).dout = s.dout := rfl
@[simp] theorem clearFlags_mbuf (s : State) : (s.clearFlags).mbuf = s.mbuf := rfl
@[simp] theorem clearFlags_draws (s : State) : (s.clearFlags).draws = s.draws := rfl
@[simp] theorem clearFlags_inputs (s : State) : (s.clearFlags).inputs = s.inputs := rfl
@[simp] theorem clearFlags_reply (s : State) : (s.clearFlags).reply = s.reply := rfl

/-! ## The flags at a completion (R95). -/

@[simp] theorem complete_ie (s : State) : (s.complete).ie = s.ie := rfl
@[simp] theorem complete_lastop (s : State) : (s.complete).lastop = s.lastop := rfl
@[simp] theorem complete_busy (s : State) : (s.complete).busy = false := rfl
@[simp] theorem complete_done (s : State) : (s.complete).done = true := rfl
@[simp] theorem complete_err (s : State) : (s.complete).err = s.err := rfl
@[simp] theorem complete_errcode (s : State) : (s.complete).errcode = s.errcode := rfl
@[simp] theorem complete_len (s : State) : (s.complete).len = s.len := rfl
@[simp] theorem complete_dir (s : State) : (s.complete).dir = s.dir := rfl
@[simp] theorem complete_b0len (s : State) : (s.complete).b0len = s.b0len := rfl
@[simp] theorem complete_devaddr (s : State) : (s.complete).devaddr = s.devaddr := rfl
@[simp] theorem complete_fcnt (s : State) : (s.complete).fcnt = s.fcnt := rfl
@[simp] theorem complete_mic (s : State) : (s.complete).mic = s.mic := rfl
@[simp] theorem complete_key (s : State) : (s.complete).key = s.key := rfl
@[simp] theorem complete_din (s : State) : (s.complete).din = s.din := rfl
@[simp] theorem complete_dout (s : State) : (s.complete).dout = s.dout := rfl
@[simp] theorem complete_mbuf (s : State) : (s.complete).mbuf = s.mbuf := rfl
@[simp] theorem complete_draws (s : State) : (s.complete).draws = s.draws + 1 := rfl
@[simp] theorem complete_inputs (s : State) : (s.complete).inputs = s.inputs := rfl
@[simp] theorem complete_reply (s : State) : (s.complete).reply = s.reply := rfl

/-! ## A command error (R94, R151). -/

@[simp] theorem raiseCmdError_ie (s : State) (c : BitVec 4) : (s.raiseCmdError c).ie = s.ie := rfl
@[simp] theorem raiseCmdError_lastop (s : State) (c : BitVec 4) : (s.raiseCmdError c).lastop = s.lastop := rfl
@[simp] theorem raiseCmdError_busy (s : State) (c : BitVec 4) : (s.raiseCmdError c).busy = s.busy := rfl
@[simp] theorem raiseCmdError_done (s : State) (c : BitVec 4) : (s.raiseCmdError c).done = true := rfl
@[simp] theorem raiseCmdError_err (s : State) (c : BitVec 4) : (s.raiseCmdError c).err = true := rfl
@[simp] theorem raiseCmdError_errcode (s : State) (c : BitVec 4) : (s.raiseCmdError c).errcode = c := rfl
@[simp] theorem raiseCmdError_len (s : State) (c : BitVec 4) : (s.raiseCmdError c).len = s.len := rfl
@[simp] theorem raiseCmdError_dir (s : State) (c : BitVec 4) : (s.raiseCmdError c).dir = s.dir := rfl
@[simp] theorem raiseCmdError_b0len (s : State) (c : BitVec 4) : (s.raiseCmdError c).b0len = s.b0len := rfl
@[simp] theorem raiseCmdError_devaddr (s : State) (c : BitVec 4) : (s.raiseCmdError c).devaddr = s.devaddr := rfl
@[simp] theorem raiseCmdError_fcnt (s : State) (c : BitVec 4) : (s.raiseCmdError c).fcnt = s.fcnt := rfl
@[simp] theorem raiseCmdError_mic (s : State) (c : BitVec 4) : (s.raiseCmdError c).mic = s.mic := rfl
@[simp] theorem raiseCmdError_key (s : State) (c : BitVec 4) : (s.raiseCmdError c).key = s.key := rfl
@[simp] theorem raiseCmdError_din (s : State) (c : BitVec 4) : (s.raiseCmdError c).din = s.din := rfl
@[simp] theorem raiseCmdError_dout (s : State) (c : BitVec 4) : (s.raiseCmdError c).dout = s.dout := rfl
@[simp] theorem raiseCmdError_mbuf (s : State) (c : BitVec 4) : (s.raiseCmdError c).mbuf = s.mbuf := rfl
@[simp] theorem raiseCmdError_draws (s : State) (c : BitVec 4) : (s.raiseCmdError c).draws = s.draws := rfl
@[simp] theorem raiseCmdError_inputs (s : State) (c : BitVec 4) : (s.raiseCmdError c).inputs = s.inputs := rfl
@[simp] theorem raiseCmdError_reply (s : State) (c : BitVec 4) : (s.raiseCmdError c).reply = s.reply := rfl

/-! ## A refused operand write (R27). -/

@[simp] theorem refuseWrite_ie (s : State) : (s.refuseWrite).ie = s.ie := rfl
@[simp] theorem refuseWrite_lastop (s : State) : (s.refuseWrite).lastop = s.lastop := rfl
@[simp] theorem refuseWrite_busy (s : State) : (s.refuseWrite).busy = s.busy := rfl
@[simp] theorem refuseWrite_done (s : State) : (s.refuseWrite).done = s.done := rfl
@[simp] theorem refuseWrite_err (s : State) : (s.refuseWrite).err = true := rfl
@[simp] theorem refuseWrite_errcode (s : State) : (s.refuseWrite).errcode = errBusyWrite := rfl
@[simp] theorem refuseWrite_len (s : State) : (s.refuseWrite).len = s.len := rfl
@[simp] theorem refuseWrite_dir (s : State) : (s.refuseWrite).dir = s.dir := rfl
@[simp] theorem refuseWrite_b0len (s : State) : (s.refuseWrite).b0len = s.b0len := rfl
@[simp] theorem refuseWrite_devaddr (s : State) : (s.refuseWrite).devaddr = s.devaddr := rfl
@[simp] theorem refuseWrite_fcnt (s : State) : (s.refuseWrite).fcnt = s.fcnt := rfl
@[simp] theorem refuseWrite_mic (s : State) : (s.refuseWrite).mic = s.mic := rfl
@[simp] theorem refuseWrite_key (s : State) : (s.refuseWrite).key = s.key := rfl
@[simp] theorem refuseWrite_din (s : State) : (s.refuseWrite).din = s.din := rfl
@[simp] theorem refuseWrite_dout (s : State) : (s.refuseWrite).dout = s.dout := rfl
@[simp] theorem refuseWrite_mbuf (s : State) : (s.refuseWrite).mbuf = s.mbuf := rfl
@[simp] theorem refuseWrite_draws (s : State) : (s.refuseWrite).draws = s.draws := rfl
@[simp] theorem refuseWrite_inputs (s : State) : (s.refuseWrite).inputs = s.inputs := rfl
@[simp] theorem refuseWrite_reply (s : State) : (s.refuseWrite).reply = s.reply := rfl

/-! ## A bus error (R60). -/

@[simp] theorem raiseBusError_ie (s : State) (a : Nat) : (s.raiseBusError a).ie = s.ie := rfl
@[simp] theorem raiseBusError_lastop (s : State) (a : Nat) : (s.raiseBusError a).lastop = s.lastop := rfl
@[simp] theorem raiseBusError_busy (s : State) (a : Nat) : (s.raiseBusError a).busy = s.busy := rfl
@[simp] theorem raiseBusError_done (s : State) (a : Nat) : (s.raiseBusError a).done = s.done := rfl
@[simp] theorem raiseBusError_err (s : State) (a : Nat) : (s.raiseBusError a).err = s.err := rfl
@[simp] theorem raiseBusError_errcode (s : State) (a : Nat) : (s.raiseBusError a).errcode = s.errcode := rfl
@[simp] theorem raiseBusError_len (s : State) (a : Nat) : (s.raiseBusError a).len = s.len := rfl
@[simp] theorem raiseBusError_dir (s : State) (a : Nat) : (s.raiseBusError a).dir = s.dir := rfl
@[simp] theorem raiseBusError_b0len (s : State) (a : Nat) : (s.raiseBusError a).b0len = s.b0len := rfl
@[simp] theorem raiseBusError_devaddr (s : State) (a : Nat) : (s.raiseBusError a).devaddr = s.devaddr := rfl
@[simp] theorem raiseBusError_fcnt (s : State) (a : Nat) : (s.raiseBusError a).fcnt = s.fcnt := rfl
@[simp] theorem raiseBusError_mic (s : State) (a : Nat) : (s.raiseBusError a).mic = s.mic := rfl
@[simp] theorem raiseBusError_key (s : State) (a : Nat) : (s.raiseBusError a).key = s.key := rfl
@[simp] theorem raiseBusError_din (s : State) (a : Nat) : (s.raiseBusError a).din = s.din := rfl
@[simp] theorem raiseBusError_dout (s : State) (a : Nat) : (s.raiseBusError a).dout = s.dout := rfl
@[simp] theorem raiseBusError_mbuf (s : State) (a : Nat) : (s.raiseBusError a).mbuf = s.mbuf := rfl
@[simp] theorem raiseBusError_draws (s : State) (a : Nat) : (s.raiseBusError a).draws = s.draws := rfl
@[simp] theorem raiseBusError_inputs (s : State) (a : Nat) : (s.raiseBusError a).inputs = s.inputs := rfl
@[simp] theorem raiseBusError_reply (s : State) (a : Nat) : (s.raiseBusError a).reply = .busError a := rfl

/-! ## A started command (R94). -/

@[simp] theorem start_ie (s : State) : (s.start).ie = s.ie := rfl
@[simp] theorem start_lastop (s : State) : (s.start).lastop = s.lastop := rfl
@[simp] theorem start_busy (s : State) : (s.start).busy = true := rfl
@[simp] theorem start_done (s : State) : (s.start).done = s.done := rfl
@[simp] theorem start_err (s : State) : (s.start).err = s.err := rfl
@[simp] theorem start_errcode (s : State) : (s.start).errcode = s.errcode := rfl
@[simp] theorem start_len (s : State) : (s.start).len = s.len := rfl
@[simp] theorem start_dir (s : State) : (s.start).dir = s.dir := rfl
@[simp] theorem start_b0len (s : State) : (s.start).b0len = s.b0len := rfl
@[simp] theorem start_devaddr (s : State) : (s.start).devaddr = s.devaddr := rfl
@[simp] theorem start_fcnt (s : State) : (s.start).fcnt = s.fcnt := rfl
@[simp] theorem start_mic (s : State) : (s.start).mic = s.mic := rfl
@[simp] theorem start_key (s : State) : (s.start).key = s.key := rfl
@[simp] theorem start_din (s : State) : (s.start).din = s.din := rfl
@[simp] theorem start_dout (s : State) : (s.start).dout = s.dout := rfl
@[simp] theorem start_mbuf (s : State) : (s.start).mbuf = s.mbuf := rfl
@[simp] theorem start_draws (s : State) : (s.start).draws = s.draws := rfl
@[simp] theorem start_inputs (s : State) : (s.start).inputs = s.inputs := rfl
@[simp] theorem start_reply (s : State) : (s.start).reply = s.reply := rfl

/-! ## The commit of a tag (R126, R136). -/

@[simp] theorem commitTag_ie (s : State) (t : Block) : (s.commitTag t).ie = s.ie := rfl
@[simp] theorem commitTag_lastop (s : State) (t : Block) : (s.commitTag t).lastop = s.lastop := rfl
@[simp] theorem commitTag_busy (s : State) (t : Block) : (s.commitTag t).busy = s.busy := rfl
@[simp] theorem commitTag_done (s : State) (t : Block) : (s.commitTag t).done = s.done := rfl
@[simp] theorem commitTag_err (s : State) (t : Block) : (s.commitTag t).err = s.err := rfl
@[simp] theorem commitTag_errcode (s : State) (t : Block) : (s.commitTag t).errcode = s.errcode := rfl
@[simp] theorem commitTag_len (s : State) (t : Block) : (s.commitTag t).len = s.len := rfl
@[simp] theorem commitTag_dir (s : State) (t : Block) : (s.commitTag t).dir = s.dir := rfl
@[simp] theorem commitTag_b0len (s : State) (t : Block) : (s.commitTag t).b0len = s.b0len := rfl
@[simp] theorem commitTag_devaddr (s : State) (t : Block) : (s.commitTag t).devaddr = s.devaddr := rfl
@[simp] theorem commitTag_fcnt (s : State) (t : Block) : (s.commitTag t).fcnt = s.fcnt := rfl
@[simp] theorem commitTag_mic (s : State) (t : Block) : (s.commitTag t).mic = t.q0.toWord := rfl
@[simp] theorem commitTag_key (s : State) (t : Block) : (s.commitTag t).key = s.key := rfl
@[simp] theorem commitTag_din (s : State) (t : Block) : (s.commitTag t).din = s.din := rfl
@[simp] theorem commitTag_dout (s : State) (t : Block) : (s.commitTag t).dout = t := rfl
@[simp] theorem commitTag_mbuf (s : State) (t : Block) : (s.commitTag t).mbuf = s.mbuf := rfl
@[simp] theorem commitTag_draws (s : State) (t : Block) : (s.commitTag t).draws = s.draws := rfl
@[simp] theorem commitTag_inputs (s : State) (t : Block) : (s.commitTag t).inputs = s.inputs := rfl
@[simp] theorem commitTag_reply (s : State) (t : Block) : (s.commitTag t).reply = s.reply := rfl

/-! ## The reset input (R168, R169). -/

@[simp] theorem assertReset_ie (s : State) : (s.assertReset).ie = false := rfl
@[simp] theorem assertReset_lastop (s : State) : (s.assertReset).lastop = 0 := rfl
@[simp] theorem assertReset_busy (s : State) : (s.assertReset).busy = false := rfl
@[simp] theorem assertReset_done (s : State) : (s.assertReset).done = false := rfl
@[simp] theorem assertReset_err (s : State) : (s.assertReset).err = false := rfl
@[simp] theorem assertReset_errcode (s : State) : (s.assertReset).errcode = 0 := rfl
@[simp] theorem assertReset_len (s : State) : (s.assertReset).len = 0 := rfl
@[simp] theorem assertReset_dir (s : State) : (s.assertReset).dir = false := rfl
@[simp] theorem assertReset_b0len (s : State) : (s.assertReset).b0len = 0 := rfl
@[simp] theorem assertReset_devaddr (s : State) : (s.assertReset).devaddr = 0 := rfl
@[simp] theorem assertReset_fcnt (s : State) : (s.assertReset).fcnt = 0 := rfl
@[simp] theorem assertReset_mic (s : State) : (s.assertReset).mic = 0 := rfl
@[simp] theorem assertReset_key (s : State) : (s.assertReset).key = Block.zero := rfl
@[simp] theorem assertReset_din (s : State) : (s.assertReset).din = Block.zero := rfl
@[simp] theorem assertReset_dout (s : State) : (s.assertReset).dout = Block.zero := rfl
@[simp] theorem assertReset_mbuf (s : State) : (s.assertReset).mbuf = [] := rfl
@[simp] theorem assertReset_draws (s : State) : (s.assertReset).draws = s.draws + 1 := rfl
@[simp] theorem assertReset_inputs (s : State) : (s.assertReset).inputs = s.inputs := rfl
@[simp] theorem assertReset_reply (s : State) : (s.assertReset).reply = .noAccess := rfl

/-! ## A command placed for the next step (log 12). -/

@[simp] theorem placeCommand_ie (s : State) (v : Word) : (s.placeCommand v).ie = s.ie := rfl
@[simp] theorem placeCommand_lastop (s : State) (v : Word) : (s.placeCommand v).lastop = opField v := rfl
@[simp] theorem placeCommand_busy (s : State) (v : Word) : (s.placeCommand v).busy = true := rfl
@[simp] theorem placeCommand_done (s : State) (v : Word) : (s.placeCommand v).done = s.done := rfl
@[simp] theorem placeCommand_err (s : State) (v : Word) : (s.placeCommand v).err = s.err := rfl
@[simp] theorem placeCommand_errcode (s : State) (v : Word) : (s.placeCommand v).errcode = s.errcode := rfl
@[simp] theorem placeCommand_len (s : State) (v : Word) : (s.placeCommand v).len = s.len := rfl
@[simp] theorem placeCommand_dir (s : State) (v : Word) : (s.placeCommand v).dir = s.dir := rfl
@[simp] theorem placeCommand_b0len (s : State) (v : Word) : (s.placeCommand v).b0len = s.b0len := rfl
@[simp] theorem placeCommand_devaddr (s : State) (v : Word) : (s.placeCommand v).devaddr = s.devaddr := rfl
@[simp] theorem placeCommand_fcnt (s : State) (v : Word) : (s.placeCommand v).fcnt = s.fcnt := rfl
@[simp] theorem placeCommand_mic (s : State) (v : Word) : (s.placeCommand v).mic = s.mic := rfl
@[simp] theorem placeCommand_key (s : State) (v : Word) : (s.placeCommand v).key = s.key := rfl
@[simp] theorem placeCommand_din (s : State) (v : Word) : (s.placeCommand v).din = s.din := rfl
@[simp] theorem placeCommand_dout (s : State) (v : Word) : (s.placeCommand v).dout = s.dout := rfl
@[simp] theorem placeCommand_mbuf (s : State) (v : Word) : (s.placeCommand v).mbuf = s.mbuf := rfl
@[simp] theorem placeCommand_draws (s : State) (v : Word) : (s.placeCommand v).draws = s.draws := rfl
@[simp] theorem placeCommand_inputs (s : State) (v : Word) : (s.placeCommand v).inputs = .engine :: s.inputs := rfl
@[simp] theorem placeCommand_reply (s : State) (v : Word) : (s.placeCommand v).reply = s.reply := rfl

end Sys2Proof.Machine
end

