-- ==== Sys2Proof/Laws/Ops.lean ====
section
/-! SUPPORT. For each shared operation, once, everything it can do: later proofs cite these and do not
unfold the operations. -/

namespace Sys2Proof.Machine

/-! ## Addresses -/

theorem lcbBase_mod_four : Config.lcbBase % 4 = 0 := by
  simp only [Config.lcbBase, Config.windowBytes]
  omega

/-- An offset of the window is found at its own address. -/
theorem windowOffset_base {o : Nat} (h : o < Config.windowBytes) :
    windowOffset (Config.lcbBase + o) = some o := by
  rw [windowOffset, if_pos ⟨by omega, by omega⟩, Nat.add_sub_cancel_left]

theorem windowOffset_eq_some {a o : Nat} :
    windowOffset a = some o ↔ o < Config.windowBytes ∧ a = Config.lcbBase + o := by
  constructor
  · intro h
    rw [windowOffset] at h
    split at h
    · cases h; omega
    · cases h
  · rintro ⟨h, rfl⟩
    exact windowOffset_base h

theorem wf_read_base {o : Nat} : HostAccess.wf (.read (Config.lcbBase + o) 4) = (o % 4 == 0) := by
  have := lcbBase_mod_four
  simp [HostAccess.wf, HostAccess.width, HostAccess.addr, Nat.add_mod, this]

theorem wf_write_base {o : Nat} {v : Word} :
    HostAccess.wf (.write (Config.lcbBase + o) 4 v) = (o % 4 == 0) := by
  have := lcbBase_mod_four
  simp [HostAccess.wf, HostAccess.width, HostAccess.addr, Nat.add_mod, this]

/-! ## The bus -/

/-- A host access does one of four things. -/
theorem hostAccess_cases (s : State) (a : HostAccess) :
    (windowOffset a.addr = none ∧ s.hostAccess a = { s with reply := .notSelected }) ∨
    (∃ o, windowOffset a.addr = some o ∧ a.wf = false ∧ s.hostAccess a = s.raiseBusError a.addr) ∨
    (∃ o, windowOffset a.addr = some o ∧ a = .read a.addr 4 ∧ a.addr % 4 = 0 ∧
      s.hostAccess a = { s with reply := .data (s.readOffset o) }) ∨
    (∃ o v, windowOffset a.addr = some o ∧ a = .write a.addr 4 v ∧ a.addr % 4 = 0 ∧
      s.hostAccess a = State.writeOffset { s with draws := s.draws + 1, reply := .written } o v) := by
  simp only [State.hostAccess]
  cases hw : windowOffset a.addr with
  | none => exact .inl ⟨rfl, rfl⟩
  | some o =>
    refine .inr ?_
    cases hf : a.wf with
    | false => exact .inl ⟨o, rfl, rfl, rfl⟩
    | true =>
      refine .inr ?_
      simp only [HostAccess.wf, Bool.and_eq_true, beq_iff_eq] at hf
      cases a with
      | read ad n =>
        have hn : n = 4 := hf.1
        subst hn
        exact .inl ⟨o, rfl, rfl, hf.2, rfl⟩
      | write ad n v =>
        have hn : n = 4 := hf.1
        subst hn
        exact .inr ⟨o, v, rfl, rfl, hf.2, rfl⟩

theorem hostAccess_read {s : State} {o : Nat} (ho : o < Config.windowBytes) (ha : o % 4 = 0) :
    s.hostAccess (.read (Config.lcbBase + o) 4) = { s with reply := .data (s.readOffset o) } := by
  simp only [State.hostAccess, HostAccess.addr, windowOffset_base ho, wf_read_base, ha]
  rfl

theorem hostAccess_write {s : State} {o : Nat} {v : Word} (ho : o < Config.windowBytes) (ha : o % 4 = 0) :
    s.hostAccess (.write (Config.lcbBase + o) 4 v) =
      State.writeOffset { s with draws := s.draws + 1, reply := .written } o v := by
  simp only [State.hostAccess, HostAccess.addr, windowOffset_base ho, wf_write_base, ha]
  rfl

/-! ## Register writes -/

/-- A register write is refused, or it stores. -/
theorem writeReg_cases (s : State) (v : Word) (r : Reg) :
    (r.isOperand = true ∧ s.busy = true ∧ s.writeReg v r = s.refuseWrite) ∨
    ((r.isOperand = false ∨ s.busy = false) ∧ s.writeReg v r = s.storeReg v r) := by
  simp only [State.writeReg]
  cases hr : r.isOperand <;> cases hb : s.busy <;> simp

theorem lenTooLong_iff (s : State) : s.lenTooLong = true ↔ Config.mbufBytes < s.len.toNat := by
  rw [State.lenTooLong, decide_eq_true_eq]

/-- Validation ends in one of three ways (R94). -/
theorem validate_cases (s : State) :
    (decodeOp s.lastop = none ∧ s.validate = s.raiseCmdError errBadOp) ∨
    (∃ i, decodeOp s.lastop = some i ∧ i.checksLen = true ∧ Config.mbufBytes < s.len.toNat ∧
      s.validate = s.raiseCmdError errBadLen) ∨
    (∃ i, decodeOp s.lastop = some i ∧ (i.checksLen = true → s.len.toNat ≤ Config.mbufBytes) ∧
      s.validate = s.start) := by
  simp only [State.validate]
  cases decodeOp s.lastop with
  | none => exact .inl ⟨rfl, rfl⟩
  | some i =>
    refine .inr ?_
    by_cases h : (i.checksLen && s.lenTooLong) = true
    · have h' := Bool.and_eq_true_iff.mp h
      exact .inl ⟨i, rfl, h'.1, (lenTooLong_iff s).mp h'.2, if_pos h⟩
    · refine .inr ⟨i, rfl, fun hc => ?_, if_neg h⟩
      have := mt (lenTooLong_iff s).mpr fun ht => h (by rw [hc, ht]; rfl)
      omega

/-- Acceptance ends in one of three ways; LASTOP and the cleared flags are the same in all (R93). -/
theorem acceptCommand_cases (s : State) (v : Word) :
    (decodeWord v = none ∧
      s.acceptCommand v = (State.clearFlags { s with lastop := opField v }).raiseCmdError errBadOp) ∨
    (∃ i, decodeWord v = some i ∧ i.checksLen = true ∧ Config.mbufBytes < s.len.toNat ∧
      s.acceptCommand v = (State.clearFlags { s with lastop := opField v }).raiseCmdError errBadLen) ∨
    (∃ i, decodeWord v = some i ∧ (i.checksLen = true → s.len.toNat ≤ Config.mbufBytes) ∧
      s.acceptCommand v = (State.clearFlags { s with lastop := opField v }).start) :=
  validate_cases (State.clearFlags { s with lastop := opField v })

/-! ## The engine and the step -/

/-- A completion changes DOUT, MIC and MBUF at most, beside the flags. -/
theorem exec_cases (i : Instr) (s : State) :
    ∃ d m b, exec i s = .next (State.complete { s with dout := d, mic := m, mbuf := b }) := by
  cases i
  · exact ⟨s.dout, s.mic, s.mbuf, rfl⟩
  · exact ⟨_, s.mic, s.mbuf, rfl⟩
  · exact ⟨_, s.mic, s.mbuf, rfl⟩
  · exact ⟨_, _, s.mbuf, rfl⟩
  · exact ⟨_, _, s.mbuf, rfl⟩
  · exact ⟨s.dout, s.mic, _, rfl⟩

/-- The engine decodes what LASTOP holds. -/
theorem decodeWord_fetchWord (s : State) : decodeWord s.fetchWord = decodeOp s.lastop := by
  have h : opField (s.lastop.setWidth 32) = s.lastop := by
    apply BitVec.eq_of_toNat_eq
    have := s.lastop.isLt
    simp only [opField, BitVec.extractLsb'_toNat, BitVec.toNat_setWidth, Nat.shiftRight_zero]
    omega
  rw [decodeWord, State.fetchWord, h]

/-- A step is one of these. -/
theorem step_cases (s : State) :
    (s.inputs = [] ∧ step s = s.engineTurn) ∨
    (∃ rest, s.inputs = .engine :: rest ∧ step s = State.engineTurn { s with inputs := rest }) ∨
    (∃ a rest, s.inputs = .access a :: rest ∧
      step s = .next (State.hostAccess { s with inputs := rest } a)) ∨
    (∃ rest, s.inputs = .reset :: rest ∧ step s = .next (State.assertReset { s with inputs := rest })) := by
  simp only [step, State.takeTurn]
  cases hi : s.inputs with
  | nil => exact .inl ⟨rfl, rfl⟩
  | cons i rest =>
    cases i with
    | access a => exact .inr (.inr (.inl ⟨a, rest, rfl, rfl⟩))
    | engine => exact .inr (.inl ⟨rest, rfl, rfl⟩)
    | reset => exact .inr (.inr (.inr ⟨rest, rfl, rfl⟩))

/-- The engine's turn does nothing while IDLE, performs LASTOP while BUSY, and stops on a reserved one. -/
theorem engineTurn_cases (s : State) :
    (s.busy = false ∧ s.engineTurn = .next s) ∨
    (∃ i, s.busy = true ∧ decodeOp s.lastop = some i ∧ s.engineTurn = exec i s) ∨
    (s.busy = true ∧ decodeOp s.lastop = none ∧ s.engineTurn = .fault (.reservedOpStarted s.lastop)) := by
  simp only [State.engineTurn, State.engineStep, decodeWord_fetchWord]
  cases hb : s.busy with
  | false => exact .inl ⟨rfl, rfl⟩
  | true =>
    cases hd : decodeOp s.lastop with
    | none => exact .inr (.inr ⟨rfl, rfl, rfl⟩)
    | some i => exact .inr (.inl ⟨i, rfl, rfl, rfl⟩)

end Sys2Proof.Machine
end

