-- ==== Sys2Proof/Laws/HostScript.lean ====
section
/-! SUPPORT. What one turn of a script's host does, statement by statement, and runs of joined schedules. -/

namespace Sys2Proof.Machine

@[simp] theorem ScriptRun.readThen_block (h : ScriptRun) (r : Reg) (f : Word → Nat) :
    (h.readThen r f).block = h.block.hostAccess (readAccess r) := rfl
@[simp] theorem ScriptRun.readThen_prog (h : ScriptRun) (r : Reg) (f : Word → Nat) :
    (h.readThen r f).prog = h.prog := rfl
@[simp] theorem ScriptRun.readThen_sent (h : ScriptRun) (r : Reg) (f : Word → Nat) :
    (h.readThen r f).sent = h.sent ++ [.r r.offset] := rfl

/-- A host turn keeps the script, and performs the transaction of its statement, if it has one (R89). -/
theorem ScriptRun.hostTurn_sent (h : ScriptRun) :
    h.hostTurn.prog = h.prog ∧
      h.hostTurn.sent = h.sent ++ ((h.prog[h.pc]?).bind Stmt.transaction).toList := by
  simp only [ScriptRun.hostTurn]
  cases h.prog[h.pc]? with
  | none => simp
  | some st => cases st <;> simp [Stmt.transaction]

/-- A joined schedule is its parts, one after the other. -/
theorem ScriptRun.run_append (a b : List Turn) (h : ScriptRun) :
    h.run (a ++ b) = (h.run a).bind fun h' => h'.run b := by
  induction a generalizing h with
  | nil => rfl
  | cons t ts ih =>
    simp only [List.cons_append, ScriptRun.run]
    cases h.turn t with
    | none => rfl
    | some h' => exact ih h'

end Sys2Proof.Machine
end

