-- ==== Sys2Proof/Laws/PerInstr.lean ====
section
/-! SUPPORT. Laws about every command, one lemma per constructor. -/

namespace Sys2Proof.Laws

/-- The decoder reads back what the encoder writes, and whatever follows it; the encoded word is as
software should write it (R80, R83, R86). -/
def Encoding.Statement (i : Instr) : Prop :=
  (∀ rest : List Byte, decode (encodeBytes i ++ rest) = .ok (i, rest)) ∧ commandWordWf (encode i) = true

theorem Encoding.nop : Encoding.Statement .nop := ⟨fun _ => rfl, rfl⟩
theorem Encoding.aesEnc : Encoding.Statement .aesEnc := ⟨fun _ => rfl, rfl⟩
theorem Encoding.aesDec : Encoding.Statement .aesDec := ⟨fun _ => rfl, rfl⟩
theorem Encoding.cmac : Encoding.Statement .cmac := ⟨fun _ => rfl, rfl⟩
theorem Encoding.micData : Encoding.Statement .micData := ⟨fun _ => rfl, rfl⟩
theorem Encoding.ctrXor : Encoding.Statement .ctrXor := ⟨fun _ => rfl, rfl⟩

end Sys2Proof.Laws
end

