-- ==== Sys2Proof/Tests/Slice0.lean ====
section
/-! SUPPORT. Tests of the model against the spec's own values, and for every statement with hypotheses a
named state and operands that meet them. -/

namespace Sys2Proof.Tests

open Sys2Proof Sys2Proof.Machine

/-! ## Ill-formed terms are refused -/

theorem test_wf_reserved_op : commandWordWf 0x00000007#32 = false := by decide
theorem test_wf_reserved_bits : commandWordWf 0x00000010#32 = false := by decide
theorem test_wf_access_width : HostAccess.wf (.read 0x100 2) = false := by decide
theorem test_wf_access_wide : HostAccess.wf (.write 0x100 8 0#32) = false := by decide
theorem test_wf_access_misaligned : HostAccess.wf (.read 0x102 4) = false := by decide
theorem test_wf_ldbuf_too_long : ldBufWf (List.replicate 257 0x00) = false := by decide +kernel
theorem test_wf_bne_without_label : scriptWf [.label "a", .bne .status 1#32 0#32 "b"] = false := by decide

/-- Every command is well formed; the terms that can be ill formed are those above (R81). -/
theorem test_wf_commands : [Instr.nop, .aesEnc, .aesDec, .cmac, .micData, .ctrXor].all Instr.wf = true := by decide

/-! ## Decoding: words written bit by bit from R79 and R83, `r` bits then `oooo` -/

theorem test_decode_nop : decodeWord 0b00000000000000000000000000000000#32 = some .nop := by decide
theorem test_decode_aesEnc : decodeWord 0b00000000000000000000000000000001#32 = some .aesEnc := by decide
theorem test_decode_aesDec : decodeWord 0b00000000000000000000000000000010#32 = some .aesDec := by decide
theorem test_decode_cmac : decodeWord 0b00000000000000000000000000000011#32 = some .cmac := by decide
theorem test_decode_micData : decodeWord 0b00000000000000000000000000000100#32 = some .micData := by decide
theorem test_decode_ctrXor : decodeWord 0b00000000000000000000000000000101#32 = some .ctrXor := by decide

/-- The reserved bits are ignored (R80, and G18 of 95_test_vectors.md). -/
theorem test_decode_ignores_reserved_bits : decodeWord 0xFFFFFFF3#32 = some .cmac := by decide

/-- Every reserved OP, its bytes as the host's word has them, is rejected by its name (R84). -/
theorem test_decode_reserved_ops : ∀ op : BitVec 4, 6 ≤ op.toNat →
    decode [op.setWidth 8, 0x00, 0x00, 0x00] = .error (.reservedOp op) := by decide

theorem test_decode_truncated : decode [0x01, 0x00, 0x00] = .error .truncated := by decide

theorem test_decode_leaves_the_rest : decode [0x05, 0x00, 0x00, 0x00, 0xAA] = .ok (.ctrXor, [0xAA]) := by decide

/-- The six rows of the opcode table, by their match values. -/
theorem test_decode_table_words : (List.range 6).map (decodeTableWord 32) =
    [some .nop, some .aesEnc, some .aesDec, some .cmac, some .micData, some .ctrXor] := by decide

/-! ## One completion on a small state -/

/-- A block of the sixteen bytes of a number, the first byte most significant. -/
def blockOf (n : Nat) : Block :=
  Block.ofList ((List.range 16).map fun k => BitVec.ofNat 8 (n / 256 ^ (15 - k)))

/-- MBUF bytes from index 0 up. -/
def bufferOf (l : List Byte) : Memory := Memory.writeBytes [] 0 l

/-- A started command's state with a key, an input block and a message. -/
def started (op : BitVec 4) (key din : Block) (msg : List Byte) : State :=
  { State.reset with
    lastop := op, busy := true, key := key, din := din
    len := BitVec.ofNat 9 msg.length, mbuf := bufferOf msg, devaddr := 0x01020304#32 }

/-- The state after a completion. -/
def after (i : Instr) (s : State) : State :=
  match exec i s with
  | .next t => t
  | .fault _ => s
  | .refused _ => s

def keyRfc : Block :=
  ⟨⟨0x2b, 0x7e, 0x15, 0x16⟩, ⟨0x28, 0xae, 0xd2, 0xa6⟩, ⟨0xab, 0xf7, 0x15, 0x88⟩, ⟨0x09, 0xcf, 0x4f, 0x3c⟩⟩
def keySeq : Block :=
  ⟨⟨0x00, 0x01, 0x02, 0x03⟩, ⟨0x04, 0x05, 0x06, 0x07⟩, ⟨0x08, 0x09, 0x0a, 0x0b⟩, ⟨0x0c, 0x0d, 0x0e, 0x0f⟩⟩

/-- The input and the output of A1, and the input of A2. -/
def fipsInput : Block :=
  ⟨⟨0x00, 0x11, 0x22, 0x33⟩, ⟨0x44, 0x55, 0x66, 0x77⟩, ⟨0x88, 0x99, 0xaa, 0xbb⟩, ⟨0xcc, 0xdd, 0xee, 0xff⟩⟩
def fipsOutput : Block :=
  ⟨⟨0x69, 0xc4, 0xe0, 0xd8⟩, ⟨0x6a, 0x7b, 0x04, 0x30⟩, ⟨0xd8, 0xcd, 0xb7, 0x80⟩, ⟨0x70, 0xb4, 0xc5, 0x5a⟩⟩
def appendixInput : Block :=
  ⟨⟨0x32, 0x43, 0xf6, 0xa8⟩, ⟨0x88, 0x5a, 0x30, 0x8d⟩, ⟨0x31, 0x31, 0x98, 0xa2⟩, ⟨0xe0, 0x37, 0x07, 0x34⟩⟩

/-- `hello`, the message of X1. -/
def hello : List Byte := [0x68, 0x65, 0x6c, 0x6c, 0x6f]

/-- The message of C2. -/
def rfcBlock : List Byte :=
  [0x6b, 0xc1, 0xbe, 0xe2, 0x2e, 0x40, 0x9f, 0x96, 0xe9, 0x3d, 0x7e, 0x11, 0x73, 0x93, 0x17, 0x2a]

/-- F12, the message of M2. -/
def f12 : List Byte := [0x40, 0x04, 0x03, 0x02, 0x01, 0x00, 0x00, 0x00, 0x01, 0x02, 0x03, 0x04]

/-- R97: a NOP from reset leaves STATUS at 2 (G9). -/
theorem test_nop_status : (after .nop (started 0 keySeq keySeq [])).readReg .status = 0x00000002#32 := by decide

/-- R95: ERR and ERRCODE of a refused write show after the completion (G15). -/
theorem test_nop_keeps_busy_write :
    (after .nop (State.refuseWrite (started 0 keySeq keySeq []))).readReg .status = 0x00000306#32 := by decide

/-- A1 (FIPS-197 Appendix C.1). -/
theorem test_aesEnc_fips : (after .aesEnc (started 1 keySeq fipsInput [])).dout =
    fipsOutput := by decide +kernel

/-- A2 (FIPS-197 Appendix B), in the first DOUT word as the host reads it. -/
theorem test_aesEnc_dout_word :
    (after .aesEnc (started 1 keyRfc appendixInput [])).readReg (.dout 0) =
      0x1d842539#32 := by decide +kernel

/-- A6. -/
theorem test_aesDec_fips : (after .aesDec (started 2 keySeq fipsOutput [])).dout =
    fipsInput := by decide +kernel

/-- A4: the all-zero key and block. -/
theorem test_aesDec_zero : (after .aesDec (started 2 Block.zero Block.zero [])).dout =
    blockOf 0x140f0f1011b5223d79587717ffd9ec3a := by decide +kernel

/-- C1: the empty message, one padded block under K2. -/
theorem test_cmac_empty : (after .cmac (started 3 keyRfc Block.zero [])).dout =
    blockOf 0xbb1d6929e95937287fa37d129b756746 := by decide +kernel

/-- C2: one whole block under K1; the MIC register. -/
theorem test_cmac_one_block_mic : (after .cmac (started 3 keyRfc Block.zero rfcBlock)).mic = 0xB4160A07#32 := by
  decide +kernel

/-- M1: B0 alone, a whole block under K1. -/
theorem test_micData_empty_mic : (after .micData (started 4 keyRfc Block.zero [])).mic = 0x8F70D7D6#32 := by
  decide +kernel

/-- M4 with B0LEN 0: a downlink over F12. -/
theorem test_micData_downlink : (after .micData { started 4 keyRfc Block.zero f12 with dir := true }).dout =
    blockOf 0xea462f1ea305f9c4f3b6f6ea7a54d8c9 := by decide +kernel

/-- X1, bytes 0 to 5: the payload changes and the byte at LEN stays unwritten. -/
theorem test_ctrXor_hello : (List.range 6).map (after .ctrXor (started 5 keySeq Block.zero hello)).mbuf.read =
    [some 0xf2, some 0x22, some 0x0a, some 0x22, some 0xde, none] := by decide +kernel

/-- X7: byte 16 takes the first byte of S_2. -/
theorem test_ctrXor_second_block :
    (after .ctrXor (started 5 keySeq Block.zero (List.replicate 17 0x00))).mbuf.read 16 = some 0x0b := by
  decide +kernel

/-! ## The register interface (section 6 of 95_test_vectors.md) -/

/-- G2, G3, G4: reserved bits read zero. -/
theorem test_reserved_bits_read_zero :
    ((State.reset.writeOffset 0x014 0xFFFFFFFF#32).readOffset 0x014,
      (State.reset.writeOffset 0x010 0xFFFFFFFF#32).readOffset 0x010,
      (State.reset.writeOffset 0x004 0xFFFFFFFF#32).readOffset 0x004) =
      (0x0000FF01#32, 0x000001FF#32, 0x00000001#32) := by decide

/-- G5: KEY0 reads zero and holds the bytes. -/
theorem test_key_reads_zero :
    ((State.reset.writeOffset 0x030 0x12345678#32).readOffset 0x030,
      (State.reset.writeOffset 0x030 0x12345678#32).key.q0.toList) = (0#32, [0x78, 0x56, 0x34, 0x12]) := by decide

/-- G11: a reserved OP. -/
theorem test_reserved_op_rejected :
    ((State.reset.writeOffset 0x008 0x7#32).readOffset 0x00C,
      (State.reset.writeOffset 0x008 0x7#32).readOffset 0x008) = (0x00000106#32, 0x00000007#32) := by decide

/-- G12: BAD_OP is checked before BAD_LEN. -/
theorem test_bad_op_before_bad_len :
    ((State.reset.writeOffset 0x010 300#32).writeOffset 0x008 0x9#32).readOffset 0x00C = 0x00000106#32 := by decide

/-- G13 and G14: LEN 257 is too long, LEN 256 is not. -/
theorem test_len_boundary :
    (((State.reset.writeOffset 0x010 257#32).writeOffset 0x008 0x4#32).readOffset 0x00C,
      ((State.reset.writeOffset 0x010 256#32).writeOffset 0x008 0x5#32).readOffset 0x00C) =
      (0x00000206#32, 0x00000001#32) := by decide

/-- G15: a CMD write while BUSY is refused, and LASTOP stays. -/
theorem test_cmd_write_while_busy :
    (((State.reset.writeOffset 0x008 0x1#32).writeOffset 0x008 0x2#32).readOffset 0x00C,
      ((State.reset.writeOffset 0x008 0x1#32).writeOffset 0x008 0x2#32).readOffset 0x008) =
      (0x00000305#32, 0x00000001#32) := by decide

/-- G19 and G20: clearing ERR clears ERRCODE; acceptance clears all three. -/
theorem test_error_clears :
    (((State.reset.writeOffset 0x008 0x7#32).writeOffset 0x00C 0x4#32).readOffset 0x00C,
      ((State.reset.writeOffset 0x008 0x7#32).writeOffset 0x008 0x0#32).readOffset 0x00C) =
      (0x00000002#32, 0x00000001#32) := by decide

/-! ## One step -/

/-- The state after one step. -/
def stepped (s : State) : State :=
  match step s with
  | .next t => t
  | .fault _ => s
  | .refused _ => s

/-- The command word of the AES_ENC row as the first step after reset: A3. -/
theorem test_first_step_runs_the_placed_command :
    (stepped (State.reset.withFetchWord 32 0x00000001)).dout = blockOf 0x66e94bd4ef8a2c3b884cfa59ca342b2e := by
  decide +kernel

/-- From reset with no input nothing happens (R102). -/
theorem test_idle_engine_has_no_step : (stepped State.reset).readReg .status = 0#32 := by decide

/-- Reset while BUSY abandons the command (R168). -/
theorem test_reset_while_busy :
    (stepped { started 1 keySeq keySeq [] with inputs := [.reset] }).readReg .status = 0#32 := by decide

/-! ## Scripts (section 8 of 95_test_vectors.md) -/

/-- The first transactions of P1's encoding. -/
theorem test_script_encoding :
    (parseScript ["LDKEY 000102030405060708090a0b0c0d0e0f", "RUN aes_enc ; a comment"]).map
        (fun p => p.filterMap fun st => st.transaction.map Transaction.text) =
      some ["W 030 03020100", "W 034 07060504", "W 038 0b0a0908", "W 03c 0f0e0d0c", "W 008 00000001", "R 00c"] := by
  decide +kernel

/-- `MBUF[k]` is `MBUFk`; no other name has brackets (R88). -/
theorem test_register_names :
    ["MBUF[63]", "MBUF63", "KEY3", "KEY[3]", "[ID", "MB[UF3", "MBUF[1]2", "MBUF64", "key0"].map
        (fun n => Reg.ofName n.toList) =
      [some (.mbuf 63), some (.mbuf 63), some (.key 3), none, none, none, none, none, none] := by
  decide +kernel

/-- `LDBUF` of no byte writes LEN only (R90; its spelling is log 13's). -/
theorem test_ldbuf_of_no_byte : parseLine "LDBUF" = some [.wr .len 0#32] := by decide +kernel

/-! ## Witnesses: for every statement with hypotheses, a state and operands that meet them -/

/-- The block with one legal read to come. -/
def reading (s : State) (o : Nat) (rest : List Input) : State :=
  { s with inputs := .access (.read (Config.lcbBase + o) 4) :: rest }

/-- The block with one legal write to come. -/
def writing (s : State) (o : Nat) (v : Word) (rest : List Input) : State :=
  { s with inputs := .access (.write (Config.lcbBase + o) 4 v) :: rest }

/-- A busy AES_ENC. -/
def busy : State := started 1 keySeq keySeq []

theorem read_bufferOf (l : List Byte) {k : Nat} (h : k < l.length) : (bufferOf l).read k = l[k]? := by
  rw [bufferOf, read_writeBytes, if_pos ⟨Nat.zero_le k, by omega⟩, Nat.sub_zero]

/-- A buffer with every byte written. -/
def fullBuffer : Memory := bufferOf (List.replicate 256 0x00)

theorem read_fullBuffer {k : Nat} (h : k < 256) : fullBuffer.read k = some 0x00 := by
  rw [fullBuffer, read_bufferOf _ (by rw [List.length_replicate]; exact h), List.getElem?_replicate, if_pos h]

theorem witness_DecodeUndoesEncode : Instr.ctrXor.wf = true ∧ encode .ctrXor ||| (0xFFFFFFF#28).setWidth 32 <<< 4 = 0xFFFFFFF5#32 := by
  decide

/-- The first and the last offset of each clause. -/
def clauseOffsets : List Nat :=
  [0x000, 0x004, 0x008, 0x00C, 0x010, 0x014, 0x018, 0x01C, 0x020, 0x030, 0x03C, 0x040, 0x04C, 0x050, 0x05C,
   0x100, 0x1FC, 0x024, 0x02C, 0x060, 0x0FC]

theorem witness_LegalRead : ∀ o ∈ clauseOffsets,
    o < 512 ∧ o % 4 = 0 ∧ (reading State.reset o []).readsAt o [] := by
  intro o ho
  have key : ∀ o ∈ clauseOffsets, o < 512 ∧ o % 4 = 0 := by decide
  exact ⟨(key o ho).1, (key o ho).2, rfl⟩

/-- The MBUF clause at its two ends: written bytes 0 and 255. -/
theorem witness_LegalRead_mbuf :
    fullBuffer.read (4 * (0 : Fin 64).val + (0 : Fin 4).val) = some 0x00 ∧
      fullBuffer.read (4 * (63 : Fin 64).val + (3 : Fin 4).val) = some 0x00 :=
  ⟨read_fullBuffer (by decide), read_fullBuffer (by decide)⟩

theorem witness_LegalRead_reserved :
    reservedOffset 0x024 ∧ reservedOffset 0x02C ∧ reservedOffset 0x060 ∧ reservedOffset 0x0FC := by
  refine ⟨.inl rfl, .inr (.inr (.inl rfl)), .inr (.inr (.inr ?_)), .inr (.inr (.inr ?_))⟩ <;> decide

theorem witness_ARepeatedRead :
    0x1FC < 512 ∧ 0x1FC % 4 = 0 ∧
      (reading State.reset 0x1FC [.access (.read (Config.lcbBase + 0x1FC) 4)]).readsAt 0x1FC
        (.access (.read (Config.lcbBase + 0x1FC) 4) :: []) := ⟨by decide, by decide, rfl⟩

theorem witness_StatusWrite : (writing busy 0x00C 0x6#32 []).writesAt 0x00C 0x6#32 [] := rfl

theorem witness_OperandWriteWhileBusy : ∀ r ∈ [Reg.cmd, .len, .frame, .devaddr, .fcnt, .key 0, .key 3, .din 0, .din 3,
    .mbuf 0, .mbuf 63],
    busy.busy = true ∧ r.isOperand = true ∧ (writing busy r.offset 0x1#32 []).writesAt r.offset 0x1#32 [] ∧
      (reading busy r.offset []).readsAt r.offset [] := by
  intro r hr
  have key : ∀ r ∈ [Reg.cmd, .len, .frame, .devaddr, .fcnt, .key 0, .key 3, .din 0, .din 3, .mbuf 0, .mbuf 63],
      r.isOperand = true := by decide
  exact ⟨rfl, key r hr, rfl, rfl⟩

theorem witness_WritesThatAreNeverRefused : ∀ o ∈ [0x004, 0x00C, 0x000, 0x020, 0x050, 0x05C, 0x024, 0x0FC],
    (writing busy o 0x1#32 []).writesAt o 0x1#32 [] := fun _ _ => rfl

theorem witness_ReservedOffsets :
    reservedOffset 0x0FC ∧ (reading busy 0x0FC []).readsAt 0x0FC [] ∧
      (writing busy 0x0FC 0x1#32 []).writesAt 0x0FC 0x1#32 [] :=
  ⟨witness_LegalRead_reserved.2.2.2, rfl, rfl⟩

theorem witness_OperandWriteWhileIdle : State.reset.busy = false ∧
    ∀ o ∈ [0x010, 0x014, 0x018, 0x01C, 0x030, 0x03C, 0x040, 0x04C, 0x100, 0x1FC],
      (writing State.reset o 0xFFFFFFFF#32 []).writesAt o 0xFFFFFFFF#32 [] := ⟨rfl, fun _ _ => rfl⟩

/-- The three outcomes at their ends: OP 5 and 6, 3 and 2, LEN 256 and 257. -/
theorem witness_CmdWriteWhileIdle :
    State.reset.busy = false ∧ (writing State.reset 0x008 0x5#32 []).writesAt 0x008 0x5#32 [] ∧
      6 ≤ (0xFFFFFFF6#32).toNat % 16 ∧ ¬ 6 ≤ (0x5#32).toNat % 16 ∧
      3 ≤ (0x3#32).toNat % 16 ∧ ¬ 3 ≤ (0x2#32).toNat % 16 ∧
      256 < (257#9).toNat ∧ ¬ 256 < (256#9).toNat := ⟨rfl, rfl, by decide⟩

theorem witness_StepRunsTheDecodedCommand :
    busy.busy = true ∧ decodeWord busy.fetchWord = some .aesEnc ∧ Instr.aesEnc.wf = true ∧ busy.inputs = [] ∧
      ({ busy with inputs := [.engine] } : State).inputs = .engine :: [] := by decide

theorem witness_EngineTurnWithoutACommand :
    State.reset.busy = false ∧ State.reset.inputs = [] ∧
      ({ State.reset with inputs := [.engine] } : State).inputs = .engine :: [] ∧
      (started 6 keySeq keySeq []).busy = true ∧ 6 ≤ (started 6 keySeq keySeq []).lastop.toNat ∧
      (started 6 keySeq keySeq []).isEngineTurn = true := by decide

/-- The empty message. -/
theorem witness_hasMessage_empty : (started 3 keyRfc keyRfc []).hasMessage [] :=
  ⟨rfl, fun k hk => absurd hk (Nat.not_lt_zero k)⟩

/-- A message that is not whole blocks. -/
theorem witness_hasMessage_hello : (started 5 keySeq keySeq hello).hasMessage hello := ⟨rfl, by decide⟩

/-- The longest message. -/
theorem witness_hasMessage_longest :
    ({ State.reset with len := 256#9, mbuf := fullBuffer } : State).hasMessage (List.replicate 256 0x00) := by
  generalize hl : List.replicate 256 (0x00 : Byte) = l
  have hlen : l.length = 256 := by rw [← hl, List.length_replicate]
  refine ⟨hlen, fun k hk => ?_⟩
  rw [← read_bufferOf l hk, ← hl, fullBuffer]

theorem witness_CommandsOverUnwrittenBytes :
    0 < ({ State.reset with len := 1#9 } : State).len.toNat ∧
      ({ State.reset with len := 1#9 } : State).mbuf.read 0 = none := by decide

/-- Two states that differ in MBUF past LEN, in FCNT[31:16] and in the flags, and agree on the operands. -/
theorem witness_ResultsDependOnlyOnTheListedOperands :
    ∃ s s' : State, s ≠ s' ∧ s'.key = s.key ∧ s'.din = s.din ∧ s.hasMessage hello ∧ s'.hasMessage hello ∧
      s'.dir = s.dir ∧ s'.devaddr = s.devaddr ∧ s'.fcnt.extractLsb' 0 16 = s.fcnt.extractLsb' 0 16 ∧
      s'.b0len = s.b0len :=
  ⟨started 5 keySeq keySeq hello,
    { started 5 keySeq keySeq hello with fcnt := 0x00010000#32, mbuf := bufferOf (hello ++ [0xFF]), err := true },
    by decide, rfl, rfl, witness_hasMessage_hello, ⟨rfl, by decide⟩, rfl, rfl, by decide, rfl⟩

theorem witness_SboxIsTheAffineMapOfTheInverse : gmul 0x53 0xca = 0x01 ∧ (0x53 : Byte) ≠ 0x00 := by decide

theorem witness_KeyExpansion : 4 ≤ 4 ∧ 4 < 44 ∧ 4 % 4 = 0 ∧ 4 ≤ 43 ∧ 43 < 44 ∧ 43 % 4 ≠ 0 := by decide

theorem witness_RoundConstants : 1 ≤ 1 := by decide

/-- The host copies DOUT into DIN under the same key. -/
theorem witness_AesDecReturns : ∃ t t' : State, exec .aesEnc busy = .next t ∧ t'.key = busy.key ∧ t'.din = t.dout :=
  ⟨_, { busy with din := aesE busy.key busy.din }, rfl, rfl, rfl⟩

/-- The padded clause with no rest (the empty message), and with the longest rest after one block. -/
theorem witness_CmacChainsItsBlocks :
    (([] : List Byte).length < 16 ∧ (([] : List Byte) = [] → ([] : List Block) = []) ∧
      (blockOf 0x80000000000000000000000000000000).toList =
        [] ++ [0x80] ++ List.replicate (15 - ([] : List Byte).length) 0x00) ∧
    ((List.replicate 15 (0x01 : Byte)).length < 16 ∧ (List.replicate 15 (0x01 : Byte) = [] → [keySeq] = []) ∧
      (blockOf 0x01010101010101010101010101010180).toList =
        List.replicate 15 0x01 ++ [0x80] ++ List.replicate (15 - (List.replicate 15 (0x01 : Byte)).length) 0x00) := by
  decide +kernel

/-- The state right after the first run, with every other component as it may be. -/
theorem witness_CtrXorIsItsOwnInverse :
    ∃ s t t' : State, s.hasMessage hello ∧ exec .ctrXor s = .next t ∧ t'.key = s.key ∧ t'.dir = s.dir ∧
      t'.devaddr = s.devaddr ∧ t'.fcnt.extractLsb' 0 16 = s.fcnt.extractLsb' 0 16 ∧ t'.len = s.len ∧
      t'.mbuf = t.mbuf :=
  ⟨started 5 keySeq keySeq hello, _, after .ctrXor (started 5 keySeq keySeq hello), witness_hasMessage_hello, rfl,
    rfl, rfl, rfl, rfl, rfl, rfl⟩

/-- A misaligned access, a narrow one at the last byte, and a wide one across the window's end (log 6). -/
theorem witness_IllegalAccess :
    let a : HostAccess := .read (Config.lcbBase + 2) 4
    let b : HostAccess := .write (Config.lcbBase + 0x1FF) 1 0#32
    let c : HostAccess := .read (Config.lcbBase + 508) 8
    (Config.lcbBase ≤ a.addr ∧ a.addr < Config.lcbBase + 512 ∧ ¬ (a.width = 4 ∧ (a.addr - Config.lcbBase) % 4 = 0)) ∧
      (Config.lcbBase ≤ b.addr ∧ b.addr < Config.lcbBase + 512 ∧
        ¬ (b.width = 4 ∧ (b.addr - Config.lcbBase) % 4 = 0)) ∧
      (Config.lcbBase ≤ c.addr ∧ c.addr < Config.lcbBase + 512 ∧
        ¬ (c.width = 4 ∧ (c.addr - Config.lcbBase) % 4 = 0)) := by
  simp [HostAccess.addr, HostAccess.width]

theorem witness_AccessOutsideTheWindow :
    (reading State.reset 512 []).inputs = .access (.read (Config.lcbBase + 512) 4) :: [] ∧
      Config.lcbBase + 512 ≤ (HostAccess.read (Config.lcbBase + 512) 4).addr := ⟨rfl, Nat.le_refl _⟩

theorem witness_IrqThroughItsEvents :
    busy.busy = true ∧ busy.isEngineTurn = true ∧ busy.lastop.toNat < 6 ∧
      (writing busy 0x00C 0x2#32 []).writesAt 0x00C 0x2#32 [] ∧
      (writing busy 0x004 0x1#32 []).writesAt 0x004 0x1#32 [] ∧
      (writing busy 0x008 0x1#32 []).writesAt 0x008 0x1#32 [] ∧
      (writing State.reset 0x008 0x1#32 []).writesAt 0x008 0x1#32 [] ∧ State.reset.busy = false ∧
      ({ busy with inputs := [.reset] } : State).isResetTurn = true :=
  ⟨rfl, rfl, by decide, rfl, rfl, rfl, rfl, rfl, rfl⟩

theorem witness_ResetRestoresEveryComponent :
    ({ busy with inputs := [.reset] } : State).inputs = .reset :: [] := rfl

/-- A busy state with the invariant that takes a step. -/
theorem witness_StepKeepsTheInvariant : busy.inv = true ∧ ∃ t, step busy = .next t := ⟨by decide, _, rfl⟩

/-- Completions that change DOUT and MIC, and MBUF. -/
theorem witness_OnlyItsWriter_completion :
    (∃ t, step (started 3 keyRfc keyRfc []) = .next t ∧ (started 3 keyRfc keyRfc []).isResetTurn = false ∧
      t.dout ≠ (started 3 keyRfc keyRfc []).dout ∧ t.mic ≠ (started 3 keyRfc keyRfc []).mic) ∧
    (∃ t, step (started 5 keySeq keySeq hello) = .next t ∧ (started 5 keySeq keySeq hello).isResetTurn = false ∧
      t.mbuf ≠ (started 5 keySeq keySeq hello).mbuf) :=
  ⟨⟨_, rfl, rfl, by decide +kernel, by decide +kernel⟩, ⟨_, rfl, rfl, by decide +kernel⟩⟩

/-- Legal writes while IDLE, each of which changes its component; STATUS writes that clear DONE, and ERR
with ERRCODE; and a refused operand write while BUSY. -/
theorem witness_OnlyItsWriter_writes :
    (State.reset.writeReg 0x1#32 .ctrl).ie ≠ State.reset.ie ∧
      (State.reset.writeReg 0x1#32 .cmd).lastop ≠ State.reset.lastop ∧
      (State.reset.writeReg 0x1#32 .len).len ≠ State.reset.len ∧
      (State.reset.writeReg 0x1#32 .frame).dir ≠ State.reset.dir ∧
      (State.reset.writeReg 0x100#32 .frame).b0len ≠ State.reset.b0len ∧
      (State.reset.writeReg 0x1#32 .devaddr).devaddr ≠ State.reset.devaddr ∧
      (State.reset.writeReg 0x1#32 .fcnt).fcnt ≠ State.reset.fcnt ∧
      (State.reset.writeReg 0x1#32 (.key 3)).key ≠ State.reset.key ∧
      (State.reset.writeReg 0x1#32 (.din 3)).din ≠ State.reset.din ∧
      (State.reset.writeReg 0x1#32 (.mbuf 63)).mbuf ≠ State.reset.mbuf ∧
      (State.reset.writeReg 0x1#32 .cmd).busy ≠ State.reset.busy ∧
      (State.reset.writeReg 0x7#32 .cmd).done ≠ State.reset.done ∧
      ((State.reset.writeReg 0x7#32 .cmd).writeReg 0x2#32 .status).done ≠ (State.reset.writeReg 0x7#32 .cmd).done ∧
      ((State.reset.writeReg 0x7#32 .cmd).writeReg 0x4#32 .status).errcode ≠
        (State.reset.writeReg 0x7#32 .cmd).errcode ∧
      (busy.writeReg 0x1#32 (.key 0)).err ≠ busy.err := by decide

/-- An MBUF write makes byte 255 written; a reset makes it unwritten again. -/
theorem witness_OnlyAHostWriteMakesAByteWritten :
    State.reset.mbuf.read 255 = none ∧ (State.reset.writeReg 0x1#32 (.mbuf 63)).mbuf.read 255 ≠ none ∧
      (stepped { State.reset.writeReg 0x1#32 (.mbuf 63) with inputs := [.reset] }).mbuf.read 255 = none := by decide

/-- A command starts, and completes. -/
theorem witness_BusyIsSetAndCleared :
    State.reset.busy = false ∧ (State.reset.writeReg 0x1#32 .cmd).busy = true ∧
      ∃ t, step busy = .next t ∧ t.busy = false := ⟨rfl, rfl, _, rfl, rfl⟩

theorem witness_AccessesWhileBusy : busy.busy = true := rfl

/-- A CTR_XOR over a written message, with one refused write before its completion. -/
theorem witness_AcceptedCommand :
    ∃ (s : State) (accs : List HostAccess), s.busy = false ∧ decodeWord 0x5#32 = some .ctrXor ∧
      (Instr.ctrXor.checksLen = true → s.len.toNat ≤ 256 ∧ s.message.isSome = true) ∧
      s.writesAt 0x008 0x5#32 (accs.map Input.access ++ .engine :: []) :=
  ⟨writing { started 0 keySeq keySeq hello with busy := false } 0x008 0x5#32
      [.access (.write (Config.lcbBase + 0x030) 4 0#32), .engine],
    [.write (Config.lcbBase + 0x030) 4 0#32], rfl, by decide, fun _ => ⟨by decide, by decide⟩, rfl⟩

theorem witness_AStartedCommandCompletes :
    busy.busy = true ∧ busy.lastop.toNat < 6 ∧ Input.reset ∉ busy.inputs := by decide

theorem witness_LdKeyLoadsTheKey : State.reset.busy = false := rfl

/-- `LDBUF` of no byte, of one, and of the longest string. -/
theorem witness_LdBufLoadsTheMessage :
    State.reset.busy = false ∧ ([] : List Byte).length ≤ 256 ∧ [(0x00 : Byte)].length ≤ 256 ∧
      (List.replicate 256 (0x00 : Byte)).length ≤ 256 := ⟨rfl, by decide, by decide, by decide +kernel⟩

/-- A `POLL` that does not match, and one that does. -/
theorem witness_PollEncodesAsItsRepeatedReads :
    (ScriptRun.start busy [.poll .status 0x1#32 0x0#32]).prog[0]? = some (.poll .status 0x1#32 0x0#32) ∧
      busy.readReg .status &&& 0x1#32 ≠ 0x0#32 ∧ State.reset.readReg .status &&& 0x1#32 = 0x0#32 := by decide

/-- A CTR_XOR with the greatest LEN. -/
theorem witness_RunEncodesAsItsWriteAndPolls :
    ({ State.reset with len := 256#9 } : State).busy = false ∧ Instr.ctrXor.checksLen = true ∧
      ({ State.reset with len := 256#9 } : State).len.toNat ≤ 256 := by decide

end Sys2Proof.Tests
end

section
/-! SUPPORT. The rules the statements of 10_state.md rest on: where a register is found, what each legal
access does as a step, what each end of an acceptance is, what a completion leaves unchanged, and once, as
`Taken`, everything a step can do. -/

namespace Sys2Proof.Machine

/-! ## The register map (R25, R29) -/

/-- A word's index in its group, out of the word's offset. -/
theorem ofNat_wordIndex {n k : Nat} [NeZero n] (w : Fin n) : Fin.ofNat n ((k + 4 * w.val - k) / 4) = w := by
  rw [Nat.add_sub_cancel_left, Nat.mul_div_cancel_left _ (by decide), Fin.ofNat_val_eq_self]

/-- The map finds every register at its offset. -/
@[simp] theorem regAt_offset (r : Reg) : regAt r.offset = some r := by
  cases r with
  | key w | din w | dout w | mbuf w =>
    have := w.isLt
    simp (disch := omega) only [Reg.offset, regAt, if_neg, if_pos, ofNat_wordIndex]
  | id | ctrl | cmd | status | len | frame | devaddr | fcnt | mic => rfl

theorem offset_mod_four (r : Reg) : r.offset % 4 = 0 := by
  cases r <;> simp only [Reg.offset] <;> omega

theorem offset_lt_windowBytes (r : Reg) : r.offset < Config.windowBytes := by
  cases r <;> simp only [Reg.offset, Config.windowBytes] <;> omega

/-- An aligned offset of the window at which the map finds a register is that register's own. -/
theorem offset_of_regAt {o : Nat} {r : Reg} (ha : o % 4 = 0) (h : regAt o = some r) : r.offset = o := by
  simp only [regAt, ite_eq_iff, Option.some.injEq] at h
  cases r with
  | key w | din w | dout w | mbuf w =>
    simp only [reduceCtorEq, Reg.key.injEq, Reg.din.injEq, Reg.dout.injEq, Reg.mbuf.injEq, Fin.ext_iff,
      Fin.val_ofNat, and_false, or_false, false_or] at h
    simp only [Reg.offset]
    omega
  | id | ctrl | cmd | status | len | frame | devaddr | fcnt | mic =>
    simp only [reduceCtorEq, and_false, or_false, false_or, and_true] at h
    simp only [Reg.offset]
    omega

theorem regAt_eq_none_iff {o : Nat} (ho : o < Config.windowBytes) (ha : o % 4 = 0) :
    regAt o = none ↔ reservedOffset o := by
  simp only [Config.windowBytes] at ho
  simp only [regAt, reservedOffset, ite_eq_iff, reduceCtorEq, and_false, false_or, and_true]
  omega

theorem reservedOffset_lt {o : Nat} (h : reservedOffset o) : o < Config.windowBytes := by
  simp only [reservedOffset, Config.windowBytes] at *
  omega

theorem reservedOffset_mod_four {o : Nat} (h : reservedOffset o) : o % 4 = 0 := by
  simp only [reservedOffset] at h
  omega

theorem regAt_reservedOffset {o : Nat} (h : reservedOffset o) : regAt o = none :=
  (regAt_eq_none_iff (reservedOffset_lt h) (reservedOffset_mod_four h)).mpr h

/-! ## The opcode map (R83, R84) -/

theorem decodeOp_eq_some_iff (op : BitVec 4) (i : Instr) : decodeOp op = some i ↔ op = i.op := by
  cases i <;> revert op <;> decide

theorem decodeOp_isSome_iff (op : BitVec 4) : (decodeOp op).isSome = true ↔ op.toNat < 6 := by
  revert op; decide

/-! ## Flags (R34) -/

theorem doneAfterStatusWrite_eq (v : Word) (d : Bool) : doneAfterStatusWrite v d = (d && !v.getLsbD 1) := by
  rw [doneAfterStatusWrite]
  cases v.getLsbD 1 <;> simp

theorem errAfterStatusWrite_eq (v : Word) (e : Bool) : errAfterStatusWrite v e = (e && !v.getLsbD 2) := by
  rw [errAfterStatusWrite]
  cases v.getLsbD 2 <;> simp

theorem cleared_of_doneAfterStatusWrite_ne {v : Word} {d : Bool} (h : doneAfterStatusWrite v d ≠ d) :
    v.getLsbD 1 = true ∧ doneAfterStatusWrite v d = false := by
  rw [doneAfterStatusWrite] at *
  split at h
  · next hv => exact ⟨hv, if_pos hv⟩
  · exact absurd rfl h

theorem cleared_of_errAfterStatusWrite_ne {v : Word} {e : Bool} {c : BitVec 4}
    (h : errAfterStatusWrite v e ≠ e ∨ errcodeAfterStatusWrite v c ≠ c) :
    v.getLsbD 2 = true ∧ errAfterStatusWrite v e = false ∧ errcodeAfterStatusWrite v c = 0#4 := by
  simp only [errAfterStatusWrite, errcodeAfterStatusWrite] at *
  cases hv : v.getLsbD 2 with
  | true => exact ⟨rfl, rfl, rfl⟩
  | false => rw [hv] at h; simp at h

/-! ## Acceptance: an equation for each of its ends, and its frame (R93, R94) -/

theorem acceptCommand_badOp {s : State} {v : Word} (hd : decodeWord v = none) :
    s.acceptCommand v = (State.clearFlags { s with lastop := opField v }).raiseCmdError errBadOp := by
  rcases acceptCommand_cases s v with ⟨-, h⟩ | ⟨i, hi, -, -, -⟩ | ⟨i, hi, -, -⟩
  · exact h
  · rw [hd] at hi; cases hi
  · rw [hd] at hi; cases hi

theorem acceptCommand_badLen {s : State} {v : Word} {i : Instr} (hd : decodeWord v = some i)
    (hc : i.checksLen = true) (hlen : Config.mbufBytes < s.len.toNat) :
    s.acceptCommand v = (State.clearFlags { s with lastop := opField v }).raiseCmdError errBadLen := by
  rcases acceptCommand_cases s v with ⟨hi, -⟩ | ⟨-, -, -, -, h⟩ | ⟨j, hi, hle, -⟩
  · rw [hd] at hi; cases hi
  · exact h
  · rw [hd] at hi; cases hi
    exact absurd (hle hc) (by omega)

theorem acceptCommand_starts {s : State} {v : Word} {i : Instr} (hd : decodeWord v = some i)
    (hlen : i.checksLen = true → s.len.toNat ≤ Config.mbufBytes) :
    s.acceptCommand v = (State.clearFlags { s with lastop := opField v }).start := by
  rcases acceptCommand_cases s v with ⟨hi, -⟩ | ⟨j, hi, hc, hlt, -⟩ | ⟨-, -, -, h⟩
  · rw [hd] at hi; cases hi
  · rw [hd] at hi; cases hi
    exact absurd (hlen hc) (by omega)
  · exact h

/-- Acceptance changes LASTOP, the phase and the flags at most (R93, R94). -/
theorem acceptCommand_frame (s : State) (v : Word) : ∃ b d e c,
    s.acceptCommand v = { s with lastop := opField v, busy := b, done := d, err := e, errcode := c } := by
  rcases acceptCommand_cases s v with ⟨-, h⟩ | ⟨i, -, -, -, h⟩ | ⟨i, -, -, h⟩ <;> exact ⟨_, _, _, _, h⟩

/-- From IDLE only a word that decodes to a command reaches BUSY. -/
theorem decodes_of_acceptCommand_busy {s : State} {v : Word} (hb : s.busy = false)
    (h : (s.acceptCommand v).busy = true) : ∃ i, decodeWord v = some i := by
  cases hd : decodeWord v with
  | some i => exact ⟨i, rfl⟩
  | none =>
    rw [acceptCommand_badOp hd, raiseCmdError_busy, clearFlags_busy, hb] at h
    cases h

/-! ## Register reads and writes (R27, R61, R62) -/

/-- Reading does not look at the schedule. -/
theorem readReg_inputs (s : State) (rest : List Input) (r : Reg) :
    State.readReg { s with inputs := rest } r = s.readReg r := by
  cases r <;> rfl

/-- Only STATUS shows the phase, and it is no operand register. -/
theorem readReg_busy {r : Reg} (s : State) (b : Bool) (hr : r.isOperand = true) :
    State.readReg { s with busy := b } r = s.readReg r := by
  cases r with
  | status => cases hr
  | _ => rfl

/-- A write of an operand register while BUSY is refused (R27). -/
theorem writeReg_refused {s : State} {r : Reg} (v : Word) (hr : r.isOperand = true) (hb : s.busy = true) :
    s.writeReg v r = s.refuseWrite := by
  simp only [State.writeReg, hr, hb, Bool.and_self, if_true]

/-- A write that is not refused stores (R62). -/
theorem writeReg_stored {s : State} {r : Reg} (v : Word) (h : r.isOperand = true → s.busy = false) :
    s.writeReg v r = s.storeReg v r := by
  simp only [State.writeReg]
  cases hr : r.isOperand with
  | false => rfl
  | true => rw [h hr]; rfl

theorem storeReg_busy {r : Reg} (s : State) (v : Word) (h : r ≠ .cmd) : (s.storeReg v r).busy = s.busy := by
  cases r with
  | cmd => exact absurd rfl h
  | _ => rfl

/-! ## Legal accesses as steps (R60 to R62) -/

theorem step_of_access {s : State} {a : HostAccess} {rest : List Input} (h : s.inputs = .access a :: rest) :
    step s = .next (State.hostAccess { s with inputs := rest } a) := by
  simp only [step, State.takeTurn, h, State.takeInput]

/-- A legal read of a register answers with it (R61). -/
theorem step_of_readsAt_offset {s : State} {r : Reg} {rest : List Input} (h : s.readsAt r.offset rest) :
    step s = .next (s.answered rest (s.readReg r)) := by
  rw [step_of_access h, hostAccess_read (offset_lt_windowBytes r) (offset_mod_four r), State.readOffset,
    regAt_offset]
  simp only [readReg_inputs]
  rfl

/-- A legal read of a reserved offset answers zero (R29). -/
theorem step_of_readsAt_reserved {s : State} {o : Nat} {rest : List Input} (ho : reservedOffset o)
    (h : s.readsAt o rest) : step s = .next (s.answered rest 0) := by
  rw [step_of_access h, hostAccess_read (reservedOffset_lt ho) (reservedOffset_mod_four ho),
    State.readOffset, regAt_reservedOffset ho]
  rfl

/-- A legal write of a register writes it (R62). -/
theorem step_of_writesAt_offset {s : State} {r : Reg} {v : Word} {rest : List Input}
    (h : s.writesAt r.offset v rest) : step s = .next ((s.acked rest).writeReg v r) := by
  rw [step_of_access h, hostAccess_write (offset_lt_windowBytes r) (offset_mod_four r), State.writeOffset,
    regAt_offset]
  rfl

/-- A legal write of a reserved offset is ignored (R29). -/
theorem step_of_writesAt_reserved {s : State} {o : Nat} {v : Word} {rest : List Input}
    (ho : reservedOffset o) (h : s.writesAt o v rest) : step s = .next (s.acked rest) := by
  rw [step_of_access h, hostAccess_write (reservedOffset_lt ho) (reservedOffset_mod_four ho),
    State.writeOffset, regAt_reservedOffset ho]
  rfl

/-- The next write of `r` is `v` exactly where the next input is a legal write of `v` at its offset. -/
theorem nextWrite_eq_some_iff {s : State} {r : Reg} {v : Word} :
    s.nextWrite r = some v ↔ ∃ rest, s.writesAt r.offset v rest := by
  simp only [State.nextWrite, State.writesAt]
  split
  · rename_i a w rest hi
    simp only [hi, List.cons.injEq, Input.access.injEq, HostAccess.write.injEq, true_and]
    split <;> simp_all
  · rename_i hne
    simp only [reduceCtorEq, false_iff, not_exists]
    exact fun rest hi => hne _ _ _ hi

/-! ## The engine's turn and the reset turn as steps (R95, R102, R168) -/

/-- On the engine's turn, named or left, the step is the engine's with the rest of the schedule. -/
theorem step_of_isEngineTurn {s : State} (h : s.isEngineTurn = true) :
    step s = State.engineTurn { s with inputs := s.inputs.tail } := by
  rcases step_cases s with ⟨hi, hs⟩ | ⟨rest, hi, hs⟩ | ⟨a, rest, hi, -⟩ | ⟨rest, hi, -⟩
  · rw [hs, hi, List.tail_nil, ← hi]
  · rw [hs, hi]; rfl
  · simp [State.isEngineTurn, hi] at h
  · simp [State.isEngineTurn, hi] at h

theorem engineTurn_of_decodeOp {s : State} {i : Instr} (hb : s.busy = true) (hd : decodeOp s.lastop = some i) :
    s.engineTurn = exec i s := by
  simp only [State.engineTurn, hb, if_true, State.engineStep, decodeWord_fetchWord, hd]

theorem step_of_started {s : State} {i : Instr} (hb : s.busy = true) (hd : decodeOp s.lastop = some i)
    (hturn : s.isEngineTurn = true) : step s = exec i { s with inputs := s.inputs.tail } := by
  rw [step_of_isEngineTurn hturn]
  exact engineTurn_of_decodeOp hb hd

theorem step_of_isResetTurn {s : State} (h : s.isResetTurn = true) :
    step s = .next (State.assertReset { s with inputs := s.inputs.tail }) := by
  rcases step_cases s with ⟨hi, -⟩ | ⟨rest, hi, -⟩ | ⟨a, rest, hi, -⟩ | ⟨rest, hi, hs⟩
  · simp [State.isResetTurn, hi] at h
  · simp [State.isResetTurn, hi] at h
  · simp [State.isResetTurn, hi] at h
  · rw [hs, hi, List.tail_cons]

/-! ## What a completion leaves unchanged (R95) -/

/-- A completion changes the results, the phase, DONE and the draw at most. -/
theorem eq_complete_of_exec {i : Instr} {s t : State} (h : exec i s = .next t) :
    t = State.complete { s with dout := t.dout, mic := t.mic, mbuf := t.mbuf } := by
  obtain ⟨d, m, b, hx⟩ := exec_cases i s
  rw [h] at hx
  cases hx
  rfl

theorem op_of_exec_dout_ne {i : Instr} {s t : State} (h : exec i s = .next t) (hne : t.dout ≠ s.dout) :
    1 ≤ i.op.toNat ∧ i.op.toNat ≤ 4 := by
  cases i with
  | nop | ctrXor => cases h; exact absurd rfl hne
  | aesEnc | aesDec | cmac | micData => decide

theorem op_of_exec_mic_ne {i : Instr} {s t : State} (h : exec i s = .next t) (hne : t.mic ≠ s.mic) :
    3 ≤ i.op.toNat ∧ i.op.toNat ≤ 4 := by
  cases i with
  | nop | aesEnc | aesDec | ctrXor => cases h; exact absurd rfl hne
  | cmac | micData => decide

theorem op_of_exec_mbuf_ne {i : Instr} {s t : State} (h : exec i s = .next t) (hne : t.mbuf ≠ s.mbuf) :
    i.op = 5#4 := by
  cases i with
  | nop | aesEnc | aesDec | cmac | micData => cases h; exact absurd rfl hne
  | ctrXor => rfl

/-! ## Everything a step can do -/

/-- How a step of `s` that answers a next state comes to that state. -/
inductive Taken (s : State) : State → Prop
  /-- An engine's turn while IDLE, a read, an access that is refused by the bus or not the block's, or a
  write of a reserved offset. -/
  | quiet (draws : Nat) (reply : Reply) :
      Taken s { s with inputs := s.inputs.tail, draws := draws, reply := reply }
  /-- The completion of the command in LASTOP. -/
  | completes {t : State} (i : Instr) (busy : s.busy = true) (turn : s.isEngineTurn = true)
      (op : s.lastop = i.op) (done : exec i { s with inputs := s.inputs.tail } = .next t) : Taken s t
  /-- A register write that is refused. -/
  | refuses (r : Reg) (v : Word) (busy : s.busy = true) (operand : r.isOperand = true)
      (write : s.nextWrite r = some v) : Taken s (s.acked s.inputs.tail).refuseWrite
  /-- A register write that stores. -/
  | stores (r : Reg) (v : Word) (idle : r.isOperand = true → s.busy = false)
      (write : s.nextWrite r = some v) : Taken s ((s.acked s.inputs.tail).storeReg v r)
  /-- Reset. -/
  | resets (turn : s.isResetTurn = true) : Taken s (State.assertReset { s with inputs := s.inputs.tail })

/-- An access that reaches the block is quiet, or a register write. -/
theorem taken_of_access {s : State} {a : HostAccess} {rest : List Input} (hi : s.inputs = .access a :: rest) :
    Taken s (State.hostAccess { s with inputs := rest } a) := by
  obtain rfl : s.inputs.tail = rest := by rw [hi, List.tail_cons]
  rcases hostAccess_cases { s with inputs := s.inputs.tail } a with
    ⟨-, h⟩ | ⟨o, -, -, h⟩ | ⟨o, -, -, -, h⟩ | ⟨o, v, ho, ha, hal, h⟩
  · rw [h]; exact .quiet s.draws _
  · rw [h]; exact .quiet s.draws _
  · rw [h]; exact .quiet s.draws _
  · have hbase := (windowOffset_eq_some.mp ho).2
    rw [h, State.writeOffset]
    cases hr : regAt o with
    | none => exact .quiet (s.draws + 1) .written
    | some r =>
      have ho4 : o % 4 = 0 := by have := lcbBase_mod_four; omega
      have hw : s.nextWrite r = some v :=
        nextWrite_eq_some_iff.mpr ⟨_, by rw [State.writesAt, offset_of_regAt ho4 hr, ← hbase, ← ha, hi]⟩
      show Taken s ((s.acked s.inputs.tail).writeReg v r)
      rcases writeReg_cases (s.acked s.inputs.tail) v r with ⟨hop, hb, h⟩ | ⟨hcase, h⟩ <;> rw [h]
      · exact .refuses r v hb hop hw
      · exact .stores r v (fun hop => hcase.resolve_left (by rw [hop]; decide)) hw

theorem taken_of_isEngineTurn {s t : State} (hturn : s.isEngineTurn = true) (h : step s = .next t) :
    Taken s t := by
  rw [step_of_isEngineTurn hturn] at h
  rcases engineTurn_cases { s with inputs := s.inputs.tail } with ⟨-, ht⟩ | ⟨i, hb, hd, ht⟩ | ⟨-, -, ht⟩ <;>
    rw [ht] at h
  · cases h
    exact .quiet s.draws s.reply
  · exact .completes i hb hturn ((decodeOp_eq_some_iff _ i).mp hd) h
  · cases h

/-- A step that answers a next state took one of the ways of `Taken`. -/
theorem taken_of_step {s t : State} (h : step s = .next t) : Taken s t := by
  rcases step_cases s with ⟨hi, -⟩ | ⟨rest, hi, -⟩ | ⟨a, rest, hi, hs⟩ | ⟨rest, hi, hs⟩
  · exact taken_of_isEngineTurn (by rw [State.isEngineTurn, hi]) h
  · exact taken_of_isEngineTurn (by rw [State.isEngineTurn, hi]) h
  · rw [hs] at h; cases h
    exact taken_of_access hi
  · rw [hs] at h; cases h
    obtain rfl : s.inputs.tail = rest := by rw [hi, List.tail_cons]
    exact .resets (by rw [State.isResetTurn, hi])

end Sys2Proof.Machine
end

section
/-! SUPPORT. Each part of the invariant is kept by every operation; the step lemma (O42) and reset (O41). -/

namespace Sys2Proof.Machine

/-! ## The parts of the invariant -/

theorem inv_iff (s : State) : s.inv = true ↔ s.errOk = true ∧ s.startedOk = true ∧ s.mbuf.wf = true := by
  simp only [State.inv, Bool.and_eq_true, and_assoc]

theorem startedOk_of_idle {s : State} (h : s.busy = false) : s.startedOk = true := by
  simp only [State.startedOk, h, Bool.not_false, Bool.true_or]

theorem startedOk_iff (s : State) : s.startedOk = true ↔ (s.busy = true → s.done = false ∧
    ∃ i, decodeOp s.lastop = some i ∧ (i.checksLen = true → s.len.toNat ≤ Config.mbufBytes)) := by
  simp only [State.startedOk]
  cases s.busy with
  | false => simp
  | true => cases decodeOp s.lastop with
    | none => simp
    | some i => simp [imp_iff_not_or]

/-! ## Acceptance and STATUS writes (R34, R93, R94) -/

/-- The error codes of an acceptance are those of its three ends (R93, R94). -/
theorem acceptCommand_errOk (s : State) (v : Word) : (s.acceptCommand v).errOk = true := by
  rcases acceptCommand_cases s v with ⟨-, h⟩ | ⟨i, -, -, -, h⟩ | ⟨i, -, -, h⟩ <;> rw [h] <;> rfl

/-- A command that starts has passed its checks, with DONE cleared (R93, R94). -/
theorem acceptCommand_startedOk {s : State} (v : Word) (hb : s.busy = false) :
    (s.acceptCommand v).startedOk = true := by
  rcases acceptCommand_cases s v with ⟨-, h⟩ | ⟨i, -, -, -, h⟩ | ⟨i, hd, hlen, h⟩ <;> rw [h]
  · exact startedOk_of_idle hb
  · exact startedOk_of_idle hb
  · exact (startedOk_iff _).mpr fun _ => ⟨rfl, i, hd, hlen⟩

/-- ERR and ERRCODE are cleared together (R34). -/
theorem writeStatus_errOk {s : State} (v : Word) (h : s.errOk = true) : (s.writeStatus v).errOk = true := by
  simp only [State.errOk, writeStatus_err, writeStatus_errcode, errAfterStatusWrite, errcodeAfterStatusWrite]
  split
  · rfl
  · exact h

theorem writeStatus_startedOk {s : State} (v : Word) (h : s.startedOk = true) :
    (s.writeStatus v).startedOk = true := by
  refine (startedOk_iff _).mpr fun hb => ?_
  obtain ⟨hdone, hcmd⟩ := (startedOk_iff s).mp h hb
  exact ⟨by rw [writeStatus_done, doneAfterStatusWrite_eq, hdone, Bool.false_and], hcmd⟩

/-! ## The message buffer (R44) -/

theorem xorKeystream_length_le (s : State) (p : List Byte) : (s.xorKeystream p).length ≤ p.length := by
  rw [State.xorKeystream, List.length_zipWith]
  exact Nat.min_le_left _ _

/-- A message in a canonical buffer ends at `MBUF_BYTES` or before, so CTR_XOR writes no byte past it. -/
theorem cipherMbuf_wf {s : State} (h : s.mbuf.wf = true) : s.cipherMbuf.wf = true := by
  rw [State.cipherMbuf]
  cases hm : s.message with
  | none => exact wf_scrambleBelow _ _ h
  | some p =>
    have hp : p.length ≤ Config.mbufBytes := by
      by_contra hlong
      have hlen : p.length = s.msgLen := slice_length hm
      have hread := (slice_isSome s.mbuf s.msgLen).mp (by rw [← State.message, hm]; rfl) Config.mbufBytes (by omega)
      rw [read_eq_none_of_wf h le_rfl] at hread
      cases hread
    exact wf_writeBytes _ (by have := xorKeystream_length_le s p; omega) h

theorem exec_mbuf_wf {i : Instr} {s t : State} (hx : exec i s = .next t) (h : s.mbuf.wf = true) :
    t.mbuf.wf = true := by
  cases i with
  | nop | aesEnc | aesDec | cmac | micData => cases hx; exact h
  | ctrXor => cases hx; exact cipherMbuf_wf h

/-! ## Stores (R62) -/

theorem storeReg_errOk {s : State} (v : Word) (r : Reg) (h : s.errOk = true) : (s.storeReg v r).errOk = true := by
  cases r with
  | cmd => exact acceptCommand_errOk s v
  | status => exact writeStatus_errOk v h
  | _ => exact h

theorem storeReg_startedOk {s : State} {r : Reg} (v : Word) (hidle : r.isOperand = true → s.busy = false)
    (h : s.startedOk = true) : (s.storeReg v r).startedOk = true := by
  cases r with
  | cmd => exact acceptCommand_startedOk v (hidle rfl)
  | status => exact writeStatus_startedOk v h
  | len => exact startedOk_of_idle (hidle rfl)
  | _ => exact h

/-- An MBUF word lies below `MBUF_BYTES`; no other register's store touches the buffer. -/
theorem storeReg_mbuf_wf {s : State} (v : Word) (r : Reg) (h : s.mbuf.wf = true) :
    (s.storeReg v r).mbuf.wf = true := by
  cases r with
  | mbuf w =>
    have hlen : (Quad.ofWord v).toList.length = 4 := rfl
    exact wf_writeBytes _ (by rw [hlen, Config.mbufBytes]; omega) h
  | cmd =>
    obtain ⟨b, d, e, c, hc⟩ := acceptCommand_frame s v
    rw [State.storeReg, hc]
    exact h
  | _ => exact h

/-! ## The invariant holds at reset and is kept -/

/-- Settles O42: each part of the invariant is kept on each way a step can take. -/
theorem stepKeepsTheInvariant : Obligations.StepKeepsTheInvariant := by
  intro s t hs h
  rw [inv_iff] at hs ⊢
  obtain ⟨herr, hstarted, hmbuf⟩ := hs
  cases taken_of_step h with
  | quiet => exact ⟨herr, hstarted, hmbuf⟩
  | completes i _ _ _ hx =>
    have hwf : t.mbuf.wf = true := exec_mbuf_wf hx hmbuf
    rw [eq_complete_of_exec hx]
    exact ⟨herr, startedOk_of_idle rfl, hwf⟩
  | refuses => exact ⟨rfl, hstarted, hmbuf⟩
  | stores r v hidle =>
    exact ⟨storeReg_errOk v r herr, storeReg_startedOk v hidle hstarted, storeReg_mbuf_wf v r hmbuf⟩
  | resets => exact ⟨rfl, rfl, rfl⟩

/-- Settles O41: the reset state is IDLE, with no error and an empty buffer. -/
theorem invariantHoldsAtReset : Obligations.InvariantHoldsAtReset := rfl

end Sys2Proof.Machine
end

section
/-! SUPPORT. The statements about the register map, register writes, the flags and IRQ, and about which
step may change which component. -/

namespace Sys2Proof.Machine

/-! ## The register map -/

/-- Settles O5: the map inverts the offsets, and its gaps are the ranges of R29. -/
theorem registerMapCoversTheWindow : Obligations.RegisterMapCoversTheWindow :=
  ⟨fun r => ⟨regAt_offset r, offset_mod_four r, offset_lt_windowBytes r⟩,
    fun _ ho ha => regAt_eq_none_iff ho ha⟩

/-- Settles O12: where the map finds no register, a read answers zero and a write is ignored. -/
theorem reservedOffsetsReadZeroAndIgnoreWrites : Obligations.ReservedOffsetsReadZeroAndIgnoreWrites :=
  fun _ _ _ ho => ⟨step_of_readsAt_reserved ho, fun _ => step_of_writesAt_reserved ho⟩

/-! ## Writes in either phase -/

/-- Settles O10: every register the statement lists is an operand register. -/
theorem operandWriteWhileBusyIsRefused : Obligations.OperandWriteWhileBusyIsRefused := by
  intro s r hb hr
  have hop : r.isOperand = true := by
    rcases hr with rfl | rfl | rfl | rfl | rfl | ⟨w, rfl⟩ | ⟨w, rfl⟩ | ⟨w, rfl⟩ <;> rfl
  constructor
  · intro v rest hw
    rw [step_of_writesAt_offset hw, writeReg_refused (s := s.acked rest) v hop hb]
    rfl
  · intro rest hrd
    rw [step_of_readsAt_offset hrd, readReg_busy s false hop]

/-- Settles O11: none of the named registers is an operand register, so BUSY is never asked, and the store
of a read-only one is the state itself. -/
theorem writesThatAreNeverRefused : Obligations.WritesThatAreNeverRefused := by
  intro s v rest
  refine ⟨fun h => step_of_writesAt_offset (r := .ctrl) h, fun h => step_of_writesAt_offset (r := .status) h, ?_⟩
  rintro o (rfl | rfl | ⟨w, rfl⟩ | ho) h
  · exact step_of_writesAt_offset (r := .id) h
  · exact step_of_writesAt_offset (r := .mic) h
  · exact step_of_writesAt_offset (r := .dout w) h
  · exact step_of_writesAt_reserved ho h

/-- Settles O9; every completion sets DONE (`exec_cases`). -/
theorem statusWriteClearsTheFlagsItNames : Obligations.StatusWriteClearsTheFlagsItNames := by
  intro s v rest h
  refine ⟨_, step_of_writesAt_offset (r := .status) h, ?_, fun i => ?_⟩
  · rw [← doneAfterStatusWrite_eq, ← errAfterStatusWrite_eq]
    rfl
  · obtain ⟨d, m, b, hx⟩ := exec_cases i ((s.acked rest).writeReg v .status)
    exact ⟨_, hx, rfl⟩

/-! ## The engine's turn, and IRQ -/

/-- Settles O16: the engine's turn, left by an ended schedule or named by it, is the started command's. -/
theorem stepRunsTheDecodedCommand : Obligations.StepRunsTheDecodedCommand := by
  intro s i hb hd _
  rw [decodeWord_fetchWord] at hd
  constructor
  · intro hi
    rw [step_of_started hb hd (by rw [State.isEngineTurn, hi]), hi, List.tail_nil, ← hi]
  · intro rest hi
    rw [step_of_started hb hd (by rw [State.isEngineTurn, hi]), hi, List.tail_cons]

/-- Settles O39, event by event. -/
theorem irqThroughItsEvents : Obligations.IrqThroughItsEvents := by
  intro s
  refine ⟨fun hb hturn hop => ?_, fun v rest hw => ?_, fun v rest hw => ?_, fun v rest hw hb => ?_,
    fun v rest hw hb => ?_, fun hturn => ?_⟩
  · obtain ⟨i, hd⟩ := Option.isSome_iff_exists.mp ((decodeOp_isSome_iff _).mpr hop)
    obtain ⟨d, m, b, hx⟩ := exec_cases i { s with inputs := s.inputs.tail }
    exact ⟨_, (step_of_started hb hd hturn).trans hx, Bool.and_true s.ie⟩
  · refine ⟨_, step_of_writesAt_offset (r := .status) hw, ?_⟩
    show (s.ie && doneAfterStatusWrite v s.done) = (s.ie && s.done && !v.getLsbD 1)
    rw [doneAfterStatusWrite_eq, Bool.and_assoc]
  · exact ⟨_, step_of_writesAt_offset (r := .ctrl) hw, rfl⟩
  · refine ⟨_, step_of_writesAt_offset (r := .cmd) hw, ?_⟩
    rw [writeReg_stored (s := s.acked rest) v fun _ => hb, State.storeReg]
    rcases acceptCommand_cases (s.acked rest) v with ⟨-, hc⟩ | ⟨i, -, -, -, hc⟩ | ⟨i, -, -, hc⟩ <;> rw [hc] <;>
      simp [State.irq, State.acked, hb]
  · refine ⟨_, step_of_writesAt_offset (r := .cmd) hw, ?_⟩
    rw [writeReg_refused (s := s.acked rest) (r := .cmd) v rfl hb]
    rfl
  · exact ⟨_, step_of_isResetTurn hturn, rfl⟩

/-! ## Who changes what -/

/-- Settles O44: on each way a step can take, the components that differ are the ones its writer may
change. -/
theorem onlyItsWriterChangesAComponent : Obligations.OnlyItsWriterChangesAComponent := by
  intro s t h hreset
  cases taken_of_step h with
  | quiet => simp
  | completes i hb hturn hop hx =>
    have hdout := op_of_exec_dout_ne hx
    have hmic := op_of_exec_mic_ne hx
    have hmbuf := op_of_exec_mbuf_ne hx
    rw [← hop] at hdout hmic hmbuf
    rw [eq_complete_of_exec hx]
    simpa [hb, hturn] using ⟨hdout, hmic, hmbuf⟩
  | refuses r v hb hr hw =>
    simpa [State.acked, hb, errBusyWrite] using fun _ => ⟨r, hr, v, hw⟩
  | stores r v hidle hw =>
    cases r with
    | cmd =>
      obtain ⟨b, d, e, c, hc⟩ := acceptCommand_frame (s.acked s.inputs.tail) v
      rw [State.storeReg, hc]
      simp [State.acked, hidle rfl, hw]
    | status =>
      simpa [State.storeReg, State.acked, hw, -BitVec.getLsbD_eq_getElem] using
        And.intro (fun h => .inl (cleared_of_doneAfterStatusWrite_ne h))
          (fun h => .inl (cleared_of_errAfterStatusWrite_ne h))
    | id | ctrl | mic | dout w => simp [State.storeReg, State.acked, hw]
    | len | frame | devaddr | fcnt => simp [State.storeReg, State.acked, hidle rfl, hw]
    | key w | din w | mbuf w =>
      simpa [State.storeReg, State.acked, hidle rfl] using fun _ => ⟨w, v, hw⟩
  | resets hturn => rw [hturn] at hreset; cases hreset

/-- Settles O46: BUSY moves at an accepted CMD write, at a completion and at reset only. -/
theorem busyIsSetAndClearedOnlyByTheLifecycle : Obligations.BusyIsSetAndClearedOnlyByTheLifecycle := by
  intro s t h
  cases taken_of_step h with
  | quiet => cases s.busy <;> simp
  | completes i hb hturn _ hx =>
    rw [eq_complete_of_exec hx]
    simp [hb, hturn]
  | refuses r v hb => simp [State.acked, hb]
  | stores r v hidle hw =>
    by_cases hr : r = .cmd
    · subst hr
      have hb : s.busy = false := hidle rfl
      refine ⟨fun _ hstart => ?_, fun hb' => by rw [hb] at hb'; cases hb'⟩
      obtain ⟨i, hd⟩ := decodes_of_acceptCommand_busy (s := s.acked s.inputs.tail) hb hstart
      exact ⟨v, i, hw, hd⟩
    · rw [storeReg_busy _ v hr]
      cases hb : s.busy <;> simp [State.acked, hb]
  | resets hturn => simp [hturn]

end Sys2Proof.Machine
end

section
/-! SUPPORT. No host access lets KEY reach another component (O50). -/

namespace Sys2Proof.Machine

/-! ## Reads do not look at KEY -/

theorem readReg_key (s : State) (k : Block) (r : Reg) : State.readReg { s with key := k } r = s.readReg r := by
  cases r <;> rfl

theorem readOffset_key (s : State) (k : Block) (o : Nat) :
    State.readOffset { s with key := k } o = s.readOffset o := by
  rw [State.readOffset, State.readOffset]
  cases regAt o with
  | none => rfl
  | some r => exact readReg_key s k r

/-! ## Writes do the same to every other component, whatever KEY holds -/

/-- Acceptance does not look at KEY. -/
theorem acceptCommand_key (s : State) (k : Block) (v : Word) :
    State.acceptCommand { s with key := k } v = { s.acceptCommand v with key := k } := by
  rcases acceptCommand_cases s v with ⟨hd, h⟩ | ⟨i, hd, hc, hlen, h⟩ | ⟨i, hd, hlen, h⟩
  · rw [h]; exact acceptCommand_badOp hd
  · rw [h]; exact acceptCommand_badLen hd hc hlen
  · rw [h]; exact acceptCommand_starts hd hlen

/-- A store does the same to every other component, whatever KEY holds. -/
theorem storeReg_key (s : State) (k : Block) (v : Word) (r : Reg) :
    ∃ k', State.storeReg { s with key := k } v r = { s.storeReg v r with key := k' } := by
  cases r with
  | cmd => exact ⟨k, acceptCommand_key s k v⟩
  | key w => exact ⟨k.setQuad w (Quad.ofWord v), rfl⟩
  | _ => exact ⟨k, rfl⟩

theorem writeOffset_key (s : State) (k : Block) (o : Nat) (v : Word) :
    ∃ k', State.writeOffset { s with key := k } o v = { s.writeOffset o v with key := k' } := by
  rw [State.writeOffset, State.writeOffset]
  cases regAt o with
  | none => exact ⟨k, rfl⟩
  | some r =>
    simp only [State.writeReg]
    split
    · exact ⟨k, rfl⟩
    · exact storeReg_key s k v r

/-! ## Host accesses -/

/-- One host access tells no two keys apart. -/
theorem hostAccess_key (s : State) (k : Block) (a : HostAccess) :
    ∃ k', State.hostAccess { s with key := k } a = { s.hostAccess a with key := k' } := by
  simp only [State.hostAccess]
  cases windowOffset a.addr with
  | none => exact ⟨k, rfl⟩
  | some o =>
    dsimp only
    split
    · cases a with
      | read => exact ⟨k, by simp only [State.legalAccess, readOffset_key]⟩
      | write _ _ v => exact writeOffset_key { s with draws := s.draws + 1, reply := .written } k o v
    · exact ⟨k, rfl⟩

/-- Settles O50, by induction on the accesses. -/
theorem noHostAccessRevealsTheKey : Obligations.NoHostAccessRevealsTheKey := by
  intro s k accs
  induction accs generalizing s k with
  | nil => exact ⟨k, rfl⟩
  | cons a as ih =>
    obtain ⟨k', ha⟩ := hostAccess_key s k a
    obtain ⟨k'', has⟩ := ih (s.hostAccess a) k'
    exact ⟨k'', by rw [State.afterAccesses, ha, has, State.afterAccesses]⟩

end Sys2Proof.Machine
end

section
/-! SUPPORT. The rules the statements of 20_memory.md rest on: packing, what each read shows, which
step a legal access is, and what the bus flags. -/

namespace Sys2Proof.Machine

/-! ## Packing (R16, R56) -/

/-- Fields that do not overlap add up. -/
theorem or_shiftLeft_eq_add {a n : Nat} (b : Nat) (h : a < 2 ^ n) : a ||| b <<< n = a + 2 ^ n * b := by
  rw [Nat.or_comm, ← Nat.shiftLeft_add_eq_or_of_lt h, Nat.shiftLeft_eq, Nat.mul_comm, Nat.add_comm]

/-- A word as the number of its four bytes. -/
theorem toNat_toWord (q : Quad) :
    q.toWord.toNat = q.b0.toNat + 256 * q.b1.toNat + 65536 * q.b2.toNat + 16777216 * q.b3.toNat := by
  have h0 := q.b0.isLt
  have h1 := q.b1.isLt
  have h2 := q.b2.isLt
  have h3 := q.b3.isLt
  simp (disch := omega) only [Quad.toWord, BitVec.toNat_or, BitVec.toNat_shiftLeft, BitVec.toNat_setWidth,
    Nat.mod_eq_of_lt, or_shiftLeft_eq_add]
  omega

theorem ofWord_toWord (q : Quad) : Quad.ofWord q.toWord = q := by
  obtain ⟨b0, b1, b2, b3⟩ := q
  have h0 := b0.isLt
  have h1 := b1.isLt
  have h2 := b2.isLt
  have h3 := b3.isLt
  simp only [Quad.ofWord, Quad.mk.injEq]
  refine ⟨?_, ?_, ?_, ?_⟩ <;> apply BitVec.eq_of_toNat_eq <;>
    simp only [BitVec.extractLsb'_toNat, toNat_toWord, Nat.shiftRight_eq_div_pow] <;> omega

theorem toWord_ofWord (v : Word) : (Quad.ofWord v).toWord = v := by
  have := v.isLt
  apply BitVec.eq_of_toNat_eq
  simp only [toNat_toWord, Quad.ofWord, BitVec.extractLsb'_toNat, Nat.shiftRight_eq_div_pow]
  omega

/-- Byte `j` of a word, as a field of it. -/
theorem getElem?_toList_ofWord (v : Word) {j : Nat} (hj : j < 4) :
    (Quad.ofWord v).toList[j]? = some (v.extractLsb' (8 * j) 8) := by
  interval_cases j <;> rfl

/-- Storing one word of a group replaces that word alone. -/
theorem quad_setQuad (x : Block) (w w' : Fin 4) (q : Quad) :
    (x.setQuad w q).quad w' = if w' = w then q else x.quad w' := by
  fin_cases w <;> fin_cases w' <;> rfl

/-! ## What the words of STATUS and FRAME hold (R33, R37) -/

/-- The STATUS word's bits and fields (R33). -/
theorem statusWord_fields (s : State) :
    s.statusWord.getLsbD 0 = s.busy ∧ s.statusWord.getLsbD 1 = s.done ∧ s.statusWord.getLsbD 2 = s.err ∧
      s.statusWord.extractLsb' 8 4 = s.errcode ∧ s.statusWord.extractLsb' 3 5 = 0 ∧
      s.statusWord.extractLsb' 12 20 = 0 := by
  simp only [State.statusWord]
  generalize s.busy = b, s.done = d, s.err = e, s.errcode = c
  revert b d e c
  decide

/-- The FRAME word as the number of its fields (R37). -/
theorem toNat_readReg_frame (s : State) : (s.readReg .frame).toNat = s.dir.toNat + 256 * s.b0len.toNat := by
  have hword : s.readReg .frame = Quad.toWord ⟨bit s.dir, s.b0len, 0, 0⟩ := by
    cases hd : s.dir <;> simp [State.readReg, Quad.toWord, bit, hd]
  rw [hword, toNat_toWord]
  cases s.dir <;> rfl

/-- The FRAME word's bits and fields (R37). -/
theorem frameWord_fields (s : State) :
    (s.readReg .frame).getLsbD 0 = s.dir ∧ (s.readReg .frame).extractLsb' 8 8 = s.b0len ∧
      (s.readReg .frame).extractLsb' 1 7 = 0 ∧ (s.readReg .frame).extractLsb' 16 16 = 0 := by
  have hdir := s.dir.toNat_lt
  have hlen := s.b0len.isLt
  refine ⟨?_, ?_, ?_, ?_⟩
  · have hlow : (s.dir.toNat + 256 * s.b0len.toNat) % 2 = s.dir.toNat := by omega
    rw [BitVec.getLsbD, toNat_readReg_frame, Nat.testBit_zero, hlow]
    cases s.dir <;> rfl
  all_goals
    apply BitVec.eq_of_toNat_eq
    simp only [BitVec.extractLsb'_toNat, toNat_readReg_frame, Nat.shiftRight_eq_div_pow,
      BitVec.ofNat_eq_ofNat, BitVec.toNat_ofNat]
    omega

/-- What an MBUF word shows of its written bytes (R61). -/
theorem extractLsb'_mbufWord {s : State} {w : Fin 64} {j : Fin 4} {b : Byte}
    (h : s.mbuf.read (4 * w.val + j.val) = some b) : (s.mbufWord w).extractLsb' (8 * j.val) 8 = b := by
  have hb : s.mbufByte (4 * w.val + j.val) = b := by simp only [State.mbufByte, h]
  have hq := ofWord_toWord ⟨s.mbufByte (4 * w.val), s.mbufByte (4 * w.val + 1), s.mbufByte (4 * w.val + 2),
    s.mbufByte (4 * w.val + 3)⟩
  simp only [Quad.ofWord, Quad.mk.injEq] at hq
  obtain ⟨h0, h1, h2, h3⟩ := hq
  rw [← hb]
  fin_cases j
  · exact h0
  · exact h1
  · exact h2
  · exact h3

/-! ## Legal reads as steps (R61, R65) -/

/-- A read at a register's offset is the register's. -/
theorem readOffset_offset (s : State) (r : Reg) : s.readOffset r.offset = s.readReg r := by
  rw [State.readOffset, regAt_offset]

/-- No read looks at the schedule or at the last answer. -/
theorem readOffset_answered (s : State) (rest : List Input) (v : Word) (o : Nat) :
    (s.answered rest v).readOffset o = s.readOffset o := by
  rw [State.readOffset, State.readOffset]
  cases regAt o with
  | none => rfl
  | some r => cases r <;> rfl

/-- A legal read at any aligned offset answers with what stands there (R61). -/
theorem step_of_readsAt {s : State} {o : Nat} {rest : List Input} (ho : o < Config.windowBytes)
    (ha : o % 4 = 0) (h : s.readsAt o rest) : step s = .next (s.answered rest (s.readOffset o)) := by
  cases hr : regAt o with
  | none =>
    rw [step_of_readsAt_reserved ((regAt_eq_none_iff ho ha).mp hr) h, State.readOffset, hr]
  | some r =>
    obtain rfl := offset_of_regAt ha hr
    rw [step_of_readsAt_offset h, readOffset_offset]

/-! ## Legal writes while IDLE as steps (R62) -/

/-- While IDLE no register write is refused. -/
theorem step_of_writesAt_idle {s : State} {r : Reg} {v : Word} {rest : List Input} (hb : s.busy = false)
    (h : s.writesAt r.offset v rest) : step s = .next ((s.acked rest).storeReg v r) := by
  rw [step_of_writesAt_offset h, writeReg_stored (s := s.acked rest) v fun _ => hb]

/-! ## What the bus flags (R59, R60) -/

theorem windowOffset_eq_none {a : Nat} :
    windowOffset a = none ↔ a < Config.lcbBase ∨ Config.lcbBase + Config.windowBytes ≤ a := by
  simp only [windowOffset, ite_eq_right_iff, reduceCtorEq, imp_false]
  omega

theorem exists_windowOffset_iff {a : Nat} :
    (∃ o, windowOffset a = some o) ↔ Config.lcbBase ≤ a ∧ a < Config.lcbBase + Config.windowBytes := by
  rw [← Option.ne_none_iff_exists', ne_eq, windowOffset_eq_none]
  omega

/-- In the window, alignment to the window and to the address space are the same (R59). -/
theorem wf_eq_false_iff {a : HostAccess} (h : Config.lcbBase ≤ a.addr) :
    a.wf = false ↔ ¬ (a.width = 4 ∧ (a.addr - Config.lcbBase) % 4 = 0) := by
  have := lcbBase_mod_four
  rw [← Bool.not_eq_true, HostAccess.wf, Bool.and_eq_true, beq_iff_eq, beq_iff_eq]
  omega

/-- A register's store leaves the bus response. -/
theorem storeReg_reply (s : State) (v : Word) (r : Reg) : (s.storeReg v r).reply = s.reply := by
  cases r with
  | cmd =>
    obtain ⟨b, d, e, c, hc⟩ := acceptCommand_frame s v
    rw [State.storeReg, hc]
  | _ => rfl

theorem writeOffset_reply (s : State) (o : Nat) (v : Word) : (s.writeOffset o v).reply = s.reply := by
  rw [State.writeOffset]
  cases regAt o with
  | none => rfl
  | some r =>
    dsimp only
    rcases writeReg_cases s v r with ⟨-, -, h⟩ | ⟨-, h⟩ <;> rw [h]
    · rfl
    · exact storeReg_reply s v r

/-- Outside its window the block does not answer (R59). -/
theorem hostAccess_outside {s : State} {a : HostAccess} (h : windowOffset a.addr = none) :
    s.hostAccess a = { s with reply := .notSelected } := by
  rw [State.hostAccess, h]

/-- In its window the block refuses what is not an aligned 32-bit access (R60). -/
theorem hostAccess_illegal {s : State} {a : HostAccess} {o : Nat} (ho : windowOffset a.addr = some o)
    (hwf : a.wf = false) : s.hostAccess a = s.raiseBusError a.addr := by
  simp only [State.hostAccess, ho, hwf, Bool.false_eq_true, if_false]

/-- The accesses the bus flags are those in the window that are not legal (R60). -/
theorem hostFault_hostAccess (s : State) (a : HostAccess) :
    (s.hostAccess a).hostFault = true ↔ (∃ o, windowOffset a.addr = some o) ∧ a.wf = false := by
  cases ho : windowOffset a.addr with
  | none => simp [hostAccess_outside ho, State.hostFault]
  | some o =>
    cases hwf : a.wf with
    | false => simp [hostAccess_illegal ho hwf, State.hostFault]
    | true =>
      simp only [State.hostAccess, ho, hwf, if_true]
      cases a with
      | read => simp [State.legalAccess, State.hostFault]
      | write => simp [State.legalAccess, State.hostFault, writeOffset_reply]

end Sys2Proof.Machine
end

section
/-! SUPPORT. The statements of 20_memory.md about byte order, reads, writes and the bus. -/

namespace Sys2Proof.Machine

/-- Settles O6: both inverses follow from the number of a word (`toNat_toWord`). -/
theorem packingPutsTheFirstByteLowest : Obligations.PackingPutsTheFirstByteLowest :=
  ⟨toNat_toWord, ofWord_toWord, toWord_ofWord, rfl⟩

/-- Settles O7: an offset the statement names is its register's, so the read is that register's. -/
theorem legalReadReturnsTheRegister : Obligations.LegalReadReturnsTheRegister := by
  intro s o rest ho ha h
  refine ⟨s.readOffset o, step_of_readsAt ho ha h, ?_, ?_, ?_, ?_, ?_, ?_, ?_, ?_, ?_, ?_, ?_, ?_, ?_, ?_⟩
  · rintro rfl; exact readOffset_offset s .id
  · rintro rfl; exact readOffset_offset s .ctrl
  · rintro rfl; exact readOffset_offset s .cmd
  · rintro rfl
    rw [show s.readOffset 0x00C = s.statusWord from readOffset_offset s .status]
    exact statusWord_fields s
  · rintro rfl; exact readOffset_offset s .len
  · rintro rfl
    rw [show s.readOffset 0x014 = s.readReg .frame from readOffset_offset s .frame]
    exact frameWord_fields s
  · rintro rfl; exact readOffset_offset s .devaddr
  · rintro rfl; exact readOffset_offset s .fcnt
  · rintro rfl; exact readOffset_offset s .mic
  · rintro w rfl; exact readOffset_offset s (.key w)
  · rintro w rfl; exact readOffset_offset s (.din w)
  · rintro w rfl; exact readOffset_offset s (.dout w)
  · rintro w rfl j b hb
    rw [show s.readOffset (0x100 + 4 * w.val) = s.mbufWord w from readOffset_offset s (.mbuf w)]
    exact extractLsb'_mbufWord hb
  · intro hres
    rw [State.readOffset, regAt_reservedOffset hres]

/-- Settles O8: the second read starts in the state the first one answers, and no read looks at what the
first one changed. -/
theorem aRepeatedReadAgrees : Obligations.ARepeatedReadAgrees := by
  intro s o rest ho ha h
  refine ⟨s.readOffset o, _, step_of_readsAt ho ha h, rfl, ?_⟩
  rw [step_of_readsAt ho ha (s := s.answered _ _) rfl, readOffset_answered]
  rfl

/-- Settles O13, register by register. -/
theorem operandWriteWhileIdleStores : Obligations.OperandWriteWhileIdleStores := by
  intro s v rest hb
  refine ⟨step_of_writesAt_idle (r := .len) hb, step_of_writesAt_idle (r := .frame) hb,
    step_of_writesAt_idle (r := .devaddr) hb, step_of_writesAt_idle (r := .fcnt) hb,
    fun w h => ⟨_, step_of_writesAt_idle (r := .key w) hb h, fun w' => quad_setQuad _ w w' _⟩,
    fun w h => ⟨_, step_of_writesAt_idle (r := .din w) hb h, fun w' => quad_setQuad _ w w' _⟩,
    fun w h => ⟨_, step_of_writesAt_idle (r := .mbuf w) hb h, fun k => ?_⟩⟩
  show (s.mbuf.writeBytes (4 * w.val) (Quad.ofWord v).toList).read k = _
  rw [read_writeBytes, show (Quad.ofWord v).toList.length = 4 from rfl]
  split
  · exact getElem?_toList_ofWord v (by omega)
  · rfl

/-- Settles O37: what is flagged is a bus error (`hostFault_hostAccess`), and LCB_BASE is aligned. -/
theorem illegalAccessIsFlaggedAndChangesNothing : Obligations.IllegalAccessIsFlaggedAndChangesNothing := by
  intro s a rest hi
  refine ⟨_, step_of_access hi, ?_, fun hf => ?_⟩
  · rw [hostFault_hostAccess, exists_windowOffset_iff, and_assoc]
    exact and_congr_right fun hlo => and_congr_right fun _ => wf_eq_false_iff hlo
  · obtain ⟨⟨o, ho⟩, hwf⟩ := (hostFault_hostAccess _ a).mp hf
    exact hostAccess_illegal ho hwf

/-- Settles O38: the map from addresses to offsets is undefined there. -/
theorem accessOutsideTheWindowIsNotTheBlocks : Obligations.AccessOutsideTheWindowIsNotTheBlocks := by
  intro s a rest hi ha
  rw [step_of_access hi, hostAccess_outside (windowOffset_eq_none.mpr ha)]

end Sys2Proof.Machine
end

section
/-! SUPPORT. What runs while a command does: host accesses leave what the command reads and writes (R70),
and its results are those of its operands at the acceptance (R99). -/

namespace Sys2Proof.Machine

/-! ## Host accesses while BUSY (R70, R71, R172) -/

/-- `t` differs from `s` at most in what host accesses while BUSY can change: IE, the flags but BUSY, and
the model's own draw and response. -/
def State.KeptWhileBusy (s t : State) : Prop :=
  ∃ ie done err code draws reply, t = { s with
    ie := ie, done := done, err := err, errcode := code, draws := draws, reply := reply }

theorem State.KeptWhileBusy.refl (s : State) : s.KeptWhileBusy s := ⟨_, _, _, _, _, _, rfl⟩

theorem State.KeptWhileBusy.trans {s t u : State} (hst : s.KeptWhileBusy t) (htu : t.KeptWhileBusy u) :
    s.KeptWhileBusy u := by
  obtain ⟨_, _, _, _, _, _, rfl⟩ := hst
  obtain ⟨_, _, _, _, _, _, rfl⟩ := htu
  exact ⟨_, _, _, _, _, _, rfl⟩

theorem State.KeptWhileBusy.busy {s t : State} (h : s.KeptWhileBusy t) : t.busy = s.busy := by
  obtain ⟨_, _, _, _, _, _, rfl⟩ := h
  rfl

theorem State.KeptWhileBusy.lastop {s t : State} (h : s.KeptWhileBusy t) : t.lastop = s.lastop := by
  obtain ⟨_, _, _, _, _, _, rfl⟩ := h
  rfl

theorem State.KeptWhileBusy.inputs {s t : State} (h : s.KeptWhileBusy t) : t.inputs = s.inputs := by
  obtain ⟨_, _, _, _, _, _, rfl⟩ := h
  rfl

theorem State.KeptWhileBusy.withInputs {s t : State} (h : s.KeptWhileBusy t) (rest : List Input) :
    State.KeptWhileBusy { s with inputs := rest } { t with inputs := rest } := by
  obtain ⟨_, _, _, _, _, _, rfl⟩ := h
  exact ⟨_, _, _, _, _, _, rfl⟩

/-- While BUSY an operand write is refused, and no other write reaches an operand or a result. -/
theorem keptWhileBusy_writeReg {s : State} (hb : s.busy = true) (v : Word) (r : Reg) :
    s.KeptWhileBusy (s.writeReg v r) := by
  rcases writeReg_cases s v r with ⟨-, -, h⟩ | ⟨hcase, h⟩ <;> rw [h]
  · exact ⟨_, _, _, _, _, _, rfl⟩
  · have hop : r.isOperand = false := hcase.resolve_right (by rw [hb]; decide)
    cases r with
    | id | ctrl | status | mic | dout => exact ⟨_, _, _, _, _, _, rfl⟩
    | cmd | len | frame | devaddr | fcnt | key | din | mbuf => cases hop

theorem keptWhileBusy_writeOffset {s : State} (hb : s.busy = true) (o : Nat) (v : Word) :
    s.KeptWhileBusy (s.writeOffset o v) := by
  rw [State.writeOffset]
  cases regAt o with
  | none => exact .refl s
  | some r => exact keptWhileBusy_writeReg hb v r

theorem keptWhileBusy_hostAccess {s : State} (hb : s.busy = true) (a : HostAccess) :
    s.KeptWhileBusy (s.hostAccess a) := by
  rcases hostAccess_cases s a with ⟨-, h⟩ | ⟨o, -, -, h⟩ | ⟨o, -, -, -, h⟩ | ⟨o, v, -, -, -, h⟩ <;> rw [h]
  · exact ⟨_, _, _, _, _, _, rfl⟩
  · exact ⟨_, _, _, _, _, _, rfl⟩
  · exact ⟨_, _, _, _, _, _, rfl⟩
  · have hack : s.KeptWhileBusy { s with draws := s.draws + 1, reply := .written } :=
      ⟨_, _, _, _, _, _, rfl⟩
    exact hack.trans (keptWhileBusy_writeOffset (hack.busy.trans hb) o v)

/-- Settles O47, by induction on the accesses. -/
theorem accessesWhileBusyLeaveOperandsAndResults : Obligations.AccessesWhileBusyLeaveOperandsAndResults := by
  intro s accs hb
  show s.KeptWhileBusy (s.afterAccesses accs)
  induction accs generalizing s with
  | nil => exact .refl s
  | cons a as ih =>
    have ha := keptWhileBusy_hostAccess hb a
    exact ha.trans (ih (s.hostAccess a) (ha.busy.trans hb))

/-! ## Runs -/

theorem run_succ_of_step {M : Host.Core} {s t : M.State} (h : M.step s = .next t) (k : Nat) :
    M.run (k + 1) s = M.run k t := by
  rw [Host.Core.run, h]

/-- The host accesses at the front of a BUSY block's schedule are taken one a step. -/
theorem run_accesses {s : State} (hb : s.busy = true) (accs : List HostAccess) (tail : List Input)
    (hi : s.inputs = accs.map Input.access ++ tail) :
    ∃ t, State.KeptWhileBusy { s with inputs := tail } t ∧
      ∀ k, Host.Core.run Sys2Proof.core (accs.length + k) s = Host.Core.run Sys2Proof.core k t := by
  induction accs generalizing s with
  | nil =>
    obtain rfl : s.inputs = tail := hi
    exact ⟨s, .refl s, fun k => by rw [List.length_nil, Nat.zero_add]⟩
  | cons a as ih =>
    have ha := keptWhileBusy_hostAccess (s := { s with inputs := as.map Input.access ++ tail }) hb a
    obtain ⟨t, ht, hrun⟩ := ih (ha.busy.trans hb) ha.inputs
    refine ⟨t, (ha.withInputs tail).trans ht, fun k => ?_⟩
    rw [List.length_cons, Nat.add_right_comm]
    exact (run_succ_of_step (step_of_access hi) _).trans (hrun k)

/-! ## A command's results depend on its operands (R81, R99) -/

/-- `s` and `t` hold the same operands and the same results: they agree in every register and byte that a
command reads or writes. -/
structure State.SameData (s t : State) : Prop where
  len : t.len = s.len
  dir : t.dir = s.dir
  b0len : t.b0len = s.b0len
  devaddr : t.devaddr = s.devaddr
  fcnt : t.fcnt = s.fcnt
  mic : t.mic = s.mic
  key : t.key = s.key
  din : t.din = s.din
  dout : t.dout = s.dout
  mbuf : t.mbuf = s.mbuf

theorem State.KeptWhileBusy.sameData {s t : State} (h : s.KeptWhileBusy t) : s.SameData t := by
  obtain ⟨_, _, _, _, _, _, rfl⟩ := h
  exact ⟨rfl, rfl, rfl, rfl, rfl, rfl, rfl, rfl, rfl, rfl⟩

theorem frameBlock_congr {s t : State} (hdir : t.dir = s.dir) (hdev : t.devaddr = s.devaddr)
    (hfcnt : t.fcnt.extractLsb' 0 16 = s.fcnt.extractLsb' 0 16) (first last : Byte) :
    t.frameBlock first last = s.frameBlock first last := by
  simp only [State.frameBlock, State.fcnt16, hdir, hdev, hfcnt]

theorem keystreamFrom_congr {s t : State} (hkey : t.key = s.key) (hdir : t.dir = s.dir)
    (hdev : t.devaddr = s.devaddr) (hfcnt : t.fcnt.extractLsb' 0 16 = s.fcnt.extractLsb' 0 16)
    (i count : Nat) : t.keystreamFrom i count = s.keystreamFrom i count := by
  induction count generalizing i with
  | zero => rfl
  | succ count ih =>
    simp only [State.keystreamFrom, State.keystreamBlock, State.counterBlock, hkey,
      frameBlock_congr hdir hdev hfcnt, ih]

namespace State.SameData

variable {s t : State}

theorem message_eq (h : s.SameData t) : t.message = s.message := by
  rw [State.message, State.message, State.msgLen, State.msgLen, h.mbuf, h.len]

theorem b0_eq (h : s.SameData t) : t.b0 = s.b0 := by
  rw [State.b0, State.b0, h.b0len, frameBlock_congr h.dir h.devaddr (by rw [h.fcnt])]

/-- A tag over a written message draws no free value. -/
theorem tagOf_eq (h : s.SameData t) (hm : s.message.isSome = true) (p : List Byte) : t.tagOf p = s.tagOf p := by
  obtain ⟨m, hm⟩ := Option.isSome_iff_exists.mp hm
  simp only [State.tagOf, h.message_eq, hm, h.key]

/-- Nor does the ciphering of one. -/
theorem cipherMbuf_eq (h : s.SameData t) (hm : s.message.isSome = true) : t.cipherMbuf = s.cipherMbuf := by
  obtain ⟨m, hm⟩ := Option.isSome_iff_exists.mp hm
  simp only [State.cipherMbuf, h.message_eq, hm, h.mbuf, State.xorKeystream,
    keystreamFrom_congr h.key h.dir h.devaddr (by rw [h.fcnt])]

/-- A command over a written message gives the same data from the same data. -/
theorem after_exec (h : s.SameData t) {i : Instr} (hm : i.checksLen = true → s.message.isSome = true)
    {u w : State} (hu : Machine.exec i s = .next u) (hw : Machine.exec i t = .next w) : u.SameData w := by
  cases i with
  | nop => cases hu; cases hw; exact { h with }
  | aesEnc | aesDec =>
    cases hu; cases hw
    exact { h with dout := by simp only [complete_dout, h.key, h.din] }
  | cmac =>
    have ht := h.tagOf_eq (hm rfl) []
    cases hu; cases hw
    exact { h with dout := ht, mic := congrArg (fun x => x.q0.toWord) ht }
  | micData =>
    have ht : t.tagOf t.b0 = s.tagOf s.b0 := by rw [h.b0_eq, h.tagOf_eq (hm rfl)]
    cases hu; cases hw
    exact { h with dout := ht, mic := congrArg (fun x => x.q0.toWord) ht }
  | ctrXor =>
    cases hu; cases hw
    exact { h with mbuf := h.cipherMbuf_eq (hm rfl) }

end State.SameData

/-! ## A command from its acceptance to its completion -/

/-- A CMD write while IDLE that passes validation starts the command it decodes to (R93, R94). -/
theorem step_of_accepted {s : State} {v : Word} {i : Instr} {rest : List Input} (hb : s.busy = false)
    (hd : decodeWord v = some i) (hlen : i.checksLen = true → s.len.toNat ≤ Config.mbufBytes)
    (h : s.writesAt (Reg.offset .cmd) v rest) :
    step s = .next (State.clearFlags { s.acked rest with lastop := opField v }).start := by
  rw [step_of_writesAt_idle hb h, State.storeReg, acceptCommand_starts hd (s := s.acked rest) hlen]

/-- Settles O48: the accepted command's block keeps to the acceptance until the engine's turn, and the
results of that turn are those of the same data. -/
theorem acceptedCommandYieldsTheResultOfItsAcceptance :
    Obligations.AcceptedCommandYieldsTheResultOfItsAcceptance := by
  intro s v i accs rest hb hd hchecks h
  have hstart := step_of_accepted hb hd (fun hc => (hchecks hc).1) h
  obtain ⟨t, hkept, hrun⟩ := run_accesses rfl accs (.engine :: rest)
    (s := (State.clearFlags { s.acked _ with lastop := opField v }).start) rfl
  have hop : t.lastop = opField v := hkept.lastop
  have hin : t.inputs = .engine :: rest := hkept.inputs
  have hdata : s.SameData { t with inputs := rest } := { hkept.sameData with }
  have hturn : step t = exec i { t with inputs := rest } := by
    rw [step_of_started (i := i) hkept.busy (hop ▸ hd) (by rw [State.isEngineTurn, hin]), hin, List.tail_cons]
  obtain ⟨d, m, b, hu⟩ := exec_cases i s
  obtain ⟨d', m', b', ht⟩ := exec_cases i { t with inputs := rest }
  have hres := hdata.after_exec (fun hc => (hchecks hc).2) hu ht
  exact ⟨_, _, (run_succ_of_step hstart _).trans ((hrun 1).trans (run_succ_of_step (hturn.trans ht) 0)), hu,
    hres.dout, hres.mic, hres.mbuf, rfl, rfl, hop, rfl, hdata.key, hdata.din, hdata.len, hdata.dir,
    hdata.b0len, hdata.devaddr, hdata.fcnt⟩

end Sys2Proof.Machine
end

section
/-! SUPPORT. The rules the statements of 30_encoding.md rest on: what the OP field is, what the decoder
reads, what a script's write does to an IDLE block and what its `POLL` does to any, and what the results of
a command over a written message are. -/

namespace Sys2Proof.Machine

/-! ## The OP field and the decoder (R80, R85, R86) -/

theorem opField_append (hi : BitVec 28) (op : BitVec 4) : opField (hi ++ op) = op :=
  BitVec.extractLsb'_append_eq_right

theorem opField_setWidth (op : BitVec 4) : opField (op.setWidth 32) = op := by
  revert op; decide

/-- Masking a word leaves its OP field, zero-extended (R86). -/
theorem and_mask_eq_setWidth_opField (v : Word) : v &&& 0x0000000F#32 = (opField v).setWidth 32 := by
  apply BitVec.eq_of_toNat_eq
  have hmask : v.toNat &&& 15 = v.toNat % 16 := Nat.and_two_pow_sub_one_eq_mod v.toNat 4
  simp only [opField, BitVec.toNat_and, BitVec.toNat_ofNat, BitVec.toNat_setWidth, BitVec.extractLsb'_toNat,
    Nat.shiftRight_zero, Nat.reducePow, Nat.reduceMod, hmask]
  omega

/-- Bits at 4 and above do not reach the OP field (R80). -/
theorem opField_or_shiftLeft (v w : Word) : opField (v ||| w <<< 4) = opField v := by
  apply BitVec.eq_of_getLsbD_eq
  intro j hj
  simp [opField, hj]

theorem decodeWord_eq_some_iff (v : Word) (i : Instr) : decodeWord v = some i ↔ opField v = i.op :=
  decodeOp_eq_some_iff (opField v) i

@[simp] theorem decodeWord_encode (i : Instr) : decodeWord (encode i) = some i :=
  (decodeWord_eq_some_iff _ i).mpr (opField_setWidth i.op)

/-- The bytes of a word that decodes give its command and leave the bytes after them (R56, R85). -/
theorem decode_toList_append {q : Quad} {i : Instr} (h : decodeWord q.toWord = some i) (rest : List Byte) :
    decode (q.toList ++ rest) = .ok (i, rest) := by
  simp only [Quad.toList, List.cons_append, List.nil_append, decode, h]

/-! ## A script's accesses to the block (R61, R62, R88) -/

/-- A script's read answers with the register, and changes nothing else (R61, R65). -/
theorem hostAccess_readAccess (s : State) (r : Reg) :
    s.hostAccess (readAccess r) = { s with reply := .data (s.readReg r) } := by
  rw [readAccess, hostAccess_read (offset_lt_windowBytes r) (offset_mod_four r), readOffset_offset]

/-- A script's write to an IDLE block stores (R62). -/
theorem hostAccess_writeAccess_idle {s : State} (hb : s.busy = false) (r : Reg) (v : Word) :
    s.hostAccess (writeAccess r v) = (s.acked s.inputs).storeReg v r := by
  rw [writeAccess, hostAccess_write (offset_lt_windowBytes r) (offset_mod_four r), State.writeOffset,
    regAt_offset]
  exact writeReg_stored (s := s.acked s.inputs) v fun _ => hb

/-- A script's CMD write to an IDLE block starts the command it decodes to, where LEN passes (R93, R94). -/
theorem hostAccess_writeAccess_cmd {s : State} {v : Word} {i : Instr} (hb : s.busy = false)
    (hd : decodeWord v = some i) (hlen : i.checksLen = true → s.len.toNat ≤ Config.mbufBytes) :
    s.hostAccess (writeAccess .cmd v) =
      (State.clearFlags { s.acked s.inputs with lastop := opField v }).start :=
  (hostAccess_writeAccess_idle hb .cmd v).trans (acceptCommand_starts (s := s.acked s.inputs) hd hlen)

/-- Reading does not look at the last answer. -/
theorem readReg_reply (s : State) (a : Reply) (r : Reg) :
    State.readReg { s with reply := a } r = s.readReg r := by
  cases r <;> rfl

/-! ## Scripts without `POLL` and `BNE`: their accesses, one after another (R89, R90) -/

theorem afterAccesses_append (s : State) (as bs : List HostAccess) :
    s.afterAccesses (as ++ bs) = (s.afterAccesses as).afterAccesses bs := by
  induction as generalizing s with
  | nil => rfl
  | cons a as ih => exact ih (s.hostAccess a)

theorem scriptAccesses_append (p q : List Stmt) :
    scriptAccesses (p ++ q) = scriptAccesses p ++ scriptAccesses q :=
  List.filterMap_append ..

/-- A script that begins with a `WR`, on an IDLE block. -/
theorem afterAccesses_wr {s : State} (hb : s.busy = false) (r : Reg) (v : Word) (prog : List Stmt) :
    s.afterAccesses (scriptAccesses (.wr r v :: prog)) =
      ((s.acked s.inputs).storeReg v r).afterAccesses (scriptAccesses prog) := by
  rw [← hostAccess_writeAccess_idle hb]
  rfl

/-- A script that begins with a write of a KEY word, on an IDLE block. -/
theorem afterAccesses_wr_key {s : State} (hb : s.busy = false) (w : Fin 4) (q : Quad) (prog : List Stmt) :
    s.afterAccesses (scriptAccesses (.wr (.key w) q.toWord :: prog)) =
      State.afterAccesses { s.acked s.inputs with key := s.key.setQuad w q } (scriptAccesses prog) := by
  rw [afterAccesses_wr hb, State.storeReg, ofWord_toWord]
  rfl

/-- Byte `j` of the first word of a byte string, zero past its end (R90). -/
theorem getElem?_ofWord_firstWord (bytes : List Byte) {j : Nat} (hj : j < 4) :
    (Quad.ofWord (firstWord bytes)).toList[j]? = some (bytes.getD j 0) := by
  rw [firstWord, ofWord_toWord]
  interval_cases j <;> rfl

/-- Storing the first word of a byte string at word `w` of MBUF. -/
theorem read_writeBytes_firstWord (m : Memory) (w : Nat) (bytes : List Byte) (k : Nat) :
    (m.writeBytes (4 * w) (Quad.ofWord (firstWord bytes)).toList).read k =
      if 4 * w ≤ k ∧ k < 4 * (w + 1) then some (bytes.getD (k - 4 * w) 0) else m.read k := by
  rw [read_writeBytes, show (Quad.ofWord (firstWord bytes)).toList.length = 4 from rfl,
    show 4 * (w + 1) = 4 * w + 4 from rfl]
  split
  · exact getElem?_ofWord_firstWord bytes (by omega)
  · rfl

/-- The words of a byte string stored from MBUF word `w` up: their bytes, zero past the string's end, and
no other byte; beside MBUF only the model's own draw and response move. -/
theorem afterAccesses_loadWords {s : State} (hb : s.busy = false) {w count : Nat} (hw : w + count ≤ 64)
    (bytes : List Byte) : ∃ mb d a,
      s.afterAccesses (scriptAccesses (loadWords w count bytes)) =
        { s with mbuf := mb, draws := d, reply := a } ∧
      ∀ k, mb.read k = if 4 * w ≤ k ∧ k < 4 * (w + count) then some (bytes.getD (k - 4 * w) 0)
        else s.mbuf.read k := by
  induction count generalizing s w bytes with
  | zero => exact ⟨s.mbuf, s.draws, s.reply, rfl, fun k => (if_neg (by omega)).symm⟩
  | succ count ih =>
    have hfin : (Fin.ofNat 64 w).val = w := Nat.mod_eq_of_lt (by omega)
    obtain ⟨mb, d, a, hrest, hread⟩ := ih
      (s := (s.acked s.inputs).storeReg (firstWord bytes) (.mbuf (Fin.ofNat 64 w))) hb (w := w + 1)
      (by omega) (bytes.drop 4)
    refine ⟨mb, d, a, (afterAccesses_wr hb _ _ _).trans hrest, fun k => ?_⟩
    have hstored : mb.read k = if 4 * (w + 1) ≤ k ∧ k < 4 * (w + 1 + count)
        then some ((bytes.drop 4).getD (k - 4 * (w + 1)) 0)
        else (s.mbuf.writeBytes (4 * (Fin.ofNat 64 w).val) (Quad.ofWord (firstWord bytes)).toList).read k :=
      hread k
    rw [hstored, hfin, read_writeBytes_firstWord]
    by_cases hlater : 4 * (w + 1) ≤ k ∧ k < 4 * (w + 1 + count)
    · rw [if_pos hlater, if_pos (by omega), List.getD_eq_getElem?_getD, List.getD_eq_getElem?_getD,
        List.getElem?_drop, show 4 + (k - 4 * (w + 1)) = k - 4 * w by omega]
    · rw [if_neg hlater]
      by_cases hfirst : 4 * w ≤ k ∧ k < 4 * (w + 1)
      · rw [if_pos hfirst, if_pos (by omega)]
      · rw [if_neg hfirst, if_neg (by omega)]

/-! ## A script in progress: `WR` and `POLL` (R88, R89) -/

/-- A `WR` performs its write and goes on. -/
theorem ScriptRun.hostTurn_wr {h : ScriptRun} {r : Reg} {v : Word} (hp : h.prog[h.pc]? = some (.wr r v)) :
    h.hostTurn = { h with
      block := h.block.hostAccess (writeAccess r v), pc := h.pc + 1, sent := h.sent ++ [.w r.offset v] } := by
  rw [ScriptRun.hostTurn, hp]

/-- A `POLL` reads its register once, and goes on or stays as the value matches or not. -/
theorem ScriptRun.hostTurn_poll {h : ScriptRun} {r : Reg} {m v : Word}
    (hp : h.prog[h.pc]? = some (.poll r m v)) :
    h.hostTurn = { h with
      block := { h.block with reply := .data (h.block.readReg r) }
      pc := if h.block.readReg r &&& m = v then h.pc + 1 else h.pc
      reads := h.block.readReg r :: h.reads
      sent := h.sent ++ [.r r.offset] } := by
  rw [ScriptRun.hostTurn, hp]
  simp only [ScriptRun.readThen, hostAccess_readAccess, State.lastRead]

theorem ScriptRun.run_host (h : ScriptRun) (ts : List Turn) : h.run (.host :: ts) = h.hostTurn.run ts := rfl

/-- While the value does not match, host turns read on and leave the block but for its response. -/
theorem ScriptRun.run_poll_unmatched {h : ScriptRun} {r : Reg} {m v : Word}
    (hp : h.prog[h.pc]? = some (.poll r m v)) (hne : h.block.readReg r &&& m ≠ v) (k : Nat) :
    ∃ h', h.run (List.replicate k .host) = some h' ∧ h'.pc = h.pc ∧ h'.prog = h.prog ∧
      h'.sent = h.sent ++ (Stmt.poll r m v).encoding k ∧ ∃ a, h'.block = { h.block with reply := a } := by
  induction k generalizing h with
  | zero => exact ⟨h, rfl, rfl, rfl, (List.append_nil _).symm, h.block.reply, rfl⟩
  | succ k ih =>
    have hturn := ScriptRun.hostTurn_poll hp
    rw [if_neg hne] at hturn
    obtain ⟨h', hrun, hpc, hprog, hsent, a, hblock⟩ := ih (h := h.hostTurn) (by rw [hturn]; exact hp)
      (by rw [hturn, readReg_reply]; exact hne)
    rw [hturn] at hpc hprog hsent hblock
    refine ⟨h', hrun, hpc, hprog, ?_, a, hblock⟩
    rw [hsent, List.append_assoc]
    rfl

/-- One read more is one transaction more. -/
theorem encoding_poll_succ (r : Reg) (m v : Word) (k : Nat) :
    (Stmt.poll r m v).encoding (k + 1) = (Stmt.poll r m v).encoding k ++ [.r r.offset] :=
  List.replicate_succ'

/-- The engine's turn completes a started command, whatever the script is at (R95). -/
theorem ScriptRun.run_engine_started {h : ScriptRun} {i : Instr} (hb : h.block.busy = true)
    (hd : decodeOp h.block.lastop = some i) (ts : List Turn) :
    ∃ h' : ScriptRun, h.run (.engine :: ts) = h'.run ts ∧ h'.prog = h.prog ∧ h'.pc = h.pc ∧
      h'.sent = h.sent ∧ h'.block.busy = false ∧ h'.block.done = true := by
  obtain ⟨d, m, b, hx⟩ := exec_cases i h.block
  refine ⟨{ h with block := State.complete { h.block with dout := d, mic := m, mbuf := b } }, ?_,
    rfl, rfl, rfl, rfl, rfl⟩
  simp only [ScriptRun.run, ScriptRun.turn, engineTurn_of_decodeOp hb hd, hx]

/-- The first turn of `RUN` starts its command and leaves the script at its `POLL` (R90, R94). -/
theorem ScriptRun.hostTurn_start_runCommand {s : State} {i : Instr} (hb : s.busy = false)
    (hlen : i.checksLen = true → s.len.toNat ≤ Config.mbufBytes) :
    ∃ h, (ScriptRun.start s (runCommand i)).hostTurn = h ∧ h.prog = runCommand i ∧ h.pc = 1 ∧
      h.sent = [.w 0x008 (encode i)] ∧ h.block.busy = true ∧ decodeOp h.block.lastop = some i := by
  refine ⟨_, ScriptRun.hostTurn_wr (r := .cmd) (v := encode i) rfl, rfl, rfl, rfl, ?_⟩
  dsimp only [ScriptRun.start]
  rw [hostAccess_writeAccess_cmd hb (decodeWord_encode i) hlen]
  exact ⟨rfl, decodeWord_encode i⟩

/-- `RUN`'s `POLL` matches exactly where the block is IDLE (R33, R90). -/
theorem readReg_status_and_one_eq_zero_iff (s : State) :
    s.readReg .status &&& 0x1 = 0x0 ↔ s.busy = false := by
  simp only [State.readReg, State.statusWord]
  generalize s.busy = b, s.done = d, s.err = e, s.errcode = c
  revert b d e c
  decide

/-! ## Results over a written message (R20, R81) -/

theorem message_of_hasMessage {s : State} {m : List Byte} (h : s.hasMessage m) : s.message = some m := by
  obtain ⟨hlen, hread⟩ := h
  exact (slice_eq_some _ _ _).mpr ⟨hlen, fun k hk => hread k (hlen ▸ hk)⟩

theorem tagOf_of_hasMessage {s : State} {m : List Byte} (h : s.hasMessage m) (p : List Byte) :
    s.tagOf p = cmacTag s.key (p ++ m) := by
  rw [State.tagOf, message_of_hasMessage h]

theorem cipherMbuf_of_hasMessage {s : State} {m : List Byte} (h : s.hasMessage m) :
    s.cipherMbuf = s.mbuf.writeBytes 0 (s.xorKeystream m) := by
  rw [State.cipherMbuf, message_of_hasMessage h]

/-- Two states that commit the same tag hold the same DOUT and MIC (R40). -/
theorem dout_mic_eq_of_tag {s s' : State} {t t' : Block} (h : t' = t) :
    (s'.commitTag t').complete.dout = (s.commitTag t).complete.dout ∧
      (s'.commitTag t').complete.mic = (s.commitTag t).complete.mic := by
  subst h
  exact ⟨rfl, rfl⟩

end Sys2Proof.Machine
end

section
/-! SUPPORT. The statements of 30_encoding.md: the command word, what a command's results depend on, and
the host scripts. -/

namespace Sys2Proof.Machine

/-! ## The command word -/

/-- Settles O4: the packing is undone, and the reserved bits do not reach the OP field. -/
theorem decodeUndoesEncodeUnderAnyReservedBits : Obligations.DecodeUndoesEncodeUnderAnyReservedBits := by
  intro i hi rest _
  apply decode_toList_append
  rw [toWord_ofWord, decodeWord_eq_some_iff, opField_or_shiftLeft, encode, opField_setWidth]

/-- Settles O2: the decoder sees OP alone, and the opcode map is checked at its sixteen values. -/
theorem decodeReadsOnlyTheOpField : Obligations.DecodeReadsOnlyTheOpField := by
  intro hi op
  rw [decodeWord, opField_append]
  revert op
  decide

/-- Settles O3: the masked word is the OP field zero-extended, and the extension can be undone. -/
theorem wordSelectsTheRowOfItsMaskedValue : Obligations.WordSelectsTheRowOfItsMaskedValue := by
  intro v i
  rw [decodeWord_eq_some_iff, and_mask_eq_setWidth_opField, encode]
  constructor
  · exact congrArg _
  · intro h
    rw [← opField_setWidth (opField v), h, opField_setWidth]

/-- Settles O1, by evaluating the decoder on the eight words. -/
theorem sampleWordsDecode : Obligations.SampleWordsDecode :=
  ⟨rfl, rfl, rfl, rfl, rfl, rfl, rfl, rfl⟩

/-! ## Results -/

/-- Settles O25: over the same written message the tags are those of the same string under the same key,
and the keystreams are the same. -/
theorem resultsDependOnlyOnTheListedOperands : Obligations.ResultsDependOnlyOnTheListedOperands := by
  intro s s' hkey
  refine ⟨fun hdin => ⟨_, _, rfl, rfl, ?_⟩, fun hdin => ⟨_, _, rfl, rfl, ?_⟩, fun m hm hm' =>
    ⟨⟨_, _, rfl, rfl, dout_mic_eq_of_tag ?_⟩, fun hdir hdev hfcnt =>
      ⟨fun hb0 => ⟨_, _, rfl, rfl, dout_mic_eq_of_tag ?_⟩, _, _, rfl, rfl, fun k hk => ?_⟩⟩⟩
  · simp only [complete_dout, hkey, hdin]
  · simp only [complete_dout, hkey, hdin]
  · rw [tagOf_of_hasMessage hm, tagOf_of_hasMessage hm', hkey]
  · rw [tagOf_of_hasMessage hm, tagOf_of_hasMessage hm', hkey, State.b0, State.b0, hb0,
      frameBlock_congr hdir hdev hfcnt]
  · have hstream : s'.xorKeystream m = s.xorKeystream m := by
      simp only [State.xorKeystream, keystreamFrom_congr hkey hdir hdev hfcnt]
    simp only [complete_mbuf, cipherMbuf_of_hasMessage hm, cipherMbuf_of_hasMessage hm', hstream,
      read_writeBytes, hm.2 k hk, hm'.2 k hk]

/-! ## Host scripts -/

/-- Settles O51: the four writes replace the four words of KEY. -/
theorem ldKeyLoadsTheKey : Obligations.LdKeyLoadsTheKey := by
  intro s x hb
  simp only [ldKey, loadGroup, afterAccesses_wr_key, hb, State.acked, Block.setQuad]
  rfl

/-- Settles O52: the words of the message, then LEN. -/
theorem ldBufLoadsTheMessage : Obligations.LdBufLoadsTheMessage := by
  intro s bytes hb hlen
  obtain ⟨mb, d, a, hwords, hread⟩ :=
    afterAccesses_loadWords hb (w := 0) (count := (bytes.length + 3) / 4) (by omega) bytes
  simp only [Nat.zero_add, Nat.mul_zero, Nat.zero_le, true_and, Nat.sub_zero] at hread
  refine ⟨mb, (BitVec.ofNat 32 bytes.length).extractLsb' 0 9, d + 1, ?_, ?_, fun k hk => ?_,
    fun k hlo hhi => ?_, fun k hk => ?_⟩
  · rw [ldBuf, scriptAccesses_append, afterAccesses_append, hwords, afterAccesses_wr (by exact hb)]
    rfl
  · simp only [BitVec.extractLsb'_toNat, BitVec.toNat_ofNat, Nat.shiftRight_zero]
    omega
  · rw [hread, if_pos (by omega), List.getD_eq_getElem _ _ hk, List.getElem?_eq_getElem hk]
  · rw [hread, if_pos hhi, List.getD_eq_default _ _ hlo]
  · rw [hread, if_neg (by omega)]

/-- Settles O54: a read that does not match leaves what the next read looks at. -/
theorem pollEncodesAsItsRepeatedReads : Obligations.PollEncodesAsItsRepeatedReads := by
  intro h r m v hp
  constructor
  · intro hne k
    obtain ⟨h', hrun, hpc, hprog, hsent, -⟩ := ScriptRun.run_poll_unmatched hp hne k
    exact ⟨h', hrun, hpc, hprog, hsent⟩
  · intro heq
    rw [ScriptRun.hostTurn_poll hp, if_pos heq]
    exact ⟨rfl, rfl⟩

/-- Settles O55: the CMD write starts the command, so the reads before the completion find BUSY 1, and the
one after it finds BUSY 0. -/
theorem runEncodesAsItsWriteAndPolls : Obligations.RunEncodesAsItsWriteAndPolls := by
  intro s i k hb hlen
  obtain ⟨h₁, hstart, hprog₁, hpc₁, hsent₁, hbusy₁, hop₁⟩ := ScriptRun.hostTurn_start_runCommand hb hlen
  have hpoll₁ : h₁.prog[h₁.pc]? = some (.poll .status 0x1 0x0) := by rw [hprog₁, hpc₁]; rfl
  have hbusy : h₁.block.readReg .status &&& 0x1 ≠ 0x0 :=
    mt (readReg_status_and_one_eq_zero_iff _).mp (by rw [hbusy₁]; decide)
  obtain ⟨h₂, hreads, hpc₂, hprog₂, hsent₂, a, hblock₂⟩ := ScriptRun.run_poll_unmatched hpoll₁ hbusy k
  obtain ⟨h₃, hengine, hprog₃, hpc₃, hsent₃, hidle₃, hdone₃⟩ :=
    ScriptRun.run_engine_started (h := h₂) (i := i) (by rw [hblock₂]; exact hbusy₁) (by rw [hblock₂]; exact hop₁)
      [.host]
  have hpoll₃ : h₃.prog[h₃.pc]? = some (.poll .status 0x1 0x0) := by
    rw [hprog₃, hpc₃, hprog₂, hpc₂, hpoll₁]
  have hlast := ScriptRun.hostTurn_poll hpoll₃
  rw [if_pos ((readReg_status_and_one_eq_zero_iff _).mpr hidle₃)] at hlast
  refine ⟨h₃.hostTurn, ?_, ?_, ?_, ?_, ?_⟩
  · rw [ScriptRun.run_host, hstart, ScriptRun.run_append, hreads]
    exact hengine
  · rw [hlast, hpc₃, hpc₂, hpc₁]
  · rw [hlast, hsent₃, hsent₂, hsent₁, List.append_assoc, encoding_poll_succ]
    rfl
  · rw [hlast, hidle₃]
  · rw [hlast, hdone₃]

/-- Settles O53, by evaluating the printer and the parser on the statement. -/
theorem scriptWriteEncodesAsATransaction : Obligations.ScriptWriteEncodesAsATransaction := by
  constructor
  · decide
  · decide

end Sys2Proof.Machine
end

section
/-! SUPPORT. The rules the statements of 40_command.md rest on: what validation sees of the command word,
and what the engine's turn does to a block that is IDLE, started, or started with a reserved OP. -/

namespace Sys2Proof.Machine

/-! ## What validation sees of the command word (R83, R94) -/

theorem toNat_opField (v : Word) : (opField v).toNat = v.toNat % 16 := by
  rw [opField, BitVec.extractLsb'_toNat, Nat.shiftRight_zero]

theorem decodeOp_eq_none_iff (op : BitVec 4) : decodeOp op = none ↔ 6 ≤ op.toNat := by
  rw [← Option.not_isSome_iff_eq_none, decodeOp_isSome_iff, Nat.not_lt]

theorem decodeWord_eq_none_iff (v : Word) : decodeWord v = none ↔ 6 ≤ v.toNat % 16 := by
  rw [decodeWord, decodeOp_eq_none_iff, toNat_opField]

/-- A word that decodes holds no reserved OP. -/
theorem not_reserved_of_decodeWord {v : Word} {i : Instr} (hd : decodeWord v = some i) : ¬ 6 ≤ v.toNat % 16 := by
  rw [← decodeWord_eq_none_iff, hd]
  nofun

/-- The commands that check LEN are those with OP 3 and above. -/
theorem checksLen_iff (i : Instr) : i.checksLen = true ↔ 3 ≤ i.op.toNat := by
  cases i <;> decide

theorem checksLen_iff_of_decodeWord {v : Word} {i : Instr} (hd : decodeWord v = some i) :
    i.checksLen = true ↔ 3 ≤ v.toNat % 16 := by
  rw [checksLen_iff, ← (decodeWord_eq_some_iff v i).mp hd, toNat_opField]

/-! ## The engine's turn (R95, R102) -/

theorem engineTurn_idle {s : State} (hb : s.busy = false) : s.engineTurn = .next s := by
  rw [State.engineTurn, hb]
  rfl

/-- While IDLE the engine's turn only moves the schedule on (R102). -/
theorem step_of_idle {s : State} (hb : s.busy = false) (hturn : s.isEngineTurn = true) :
    step s = .next { s with inputs := s.inputs.tail } :=
  (step_of_isEngineTurn hturn).trans (engineTurn_idle hb)

/-- A started reserved OP is the model's own stop (log 9). -/
theorem engineTurn_reserved {s : State} (hb : s.busy = true) (hop : 6 ≤ s.lastop.toNat) :
    s.engineTurn = .fault (.reservedOpStarted s.lastop) := by
  rw [State.engineTurn, if_pos hb, State.engineStep, decodeWord_fetchWord,
    (decodeOp_eq_none_iff s.lastop).mpr hop]

/-- The engine answers a next state, unless a reserved OP has started. -/
theorem exists_next_of_engineTurn {s : State} (h : s.busy = true → (decodeOp s.lastop).isSome = true) :
    ∃ t, s.engineTurn = .next t := by
  rcases engineTurn_cases s with ⟨-, ht⟩ | ⟨i, -, -, ht⟩ | ⟨hb, hd, -⟩
  · exact ⟨s, ht⟩
  · obtain ⟨d, m, b, hx⟩ := exec_cases i s
    exact ⟨_, ht.trans hx⟩
  · rw [hd] at h
    cases h hb

/-- On the engine's turn a started command completes (R95). -/
theorem step_completes {s : State} (hb : s.busy = true) (hop : s.lastop.toNat < 6)
    (hturn : s.isEngineTurn = true) : ∃ t, step s = .next t ∧ t.busy = false ∧ t.done = true := by
  obtain ⟨i, hd⟩ := Option.isSome_iff_exists.mp ((decodeOp_isSome_iff s.lastop).mpr hop)
  obtain ⟨d, m, b, hx⟩ := exec_cases i { s with inputs := s.inputs.tail }
  exact ⟨_, (step_of_started hb hd hturn).trans hx, rfl, rfl⟩

end Sys2Proof.Machine
end

section
/-! SUPPORT. The statements of 40_command.md: acceptance, the engine's turn, progress and completion. -/

namespace Sys2Proof.Machine

/-! ## Acceptance -/

/-- Settles O14: the three ends of an acceptance are the three cases of the OP field and LEN. -/
theorem cmdWriteWhileIdleIsValidated : Obligations.CmdWriteWhileIdleIsValidated := by
  intro s v rest hb h
  rw [step_of_writesAt_idle (r := .cmd) hb h, State.storeReg]
  rcases acceptCommand_cases (s.acked rest) v with
    ⟨hd, hc⟩ | ⟨i, hd, hchecks, hlen, hc⟩ | ⟨i, hd, hlen, hc⟩ <;> rw [hc]
  · rw [if_pos ((decodeWord_eq_none_iff v).mp hd)]
    rfl
  · rw [if_neg (not_reserved_of_decodeWord hd), if_pos ⟨(checksLen_iff_of_decodeWord hd).mp hchecks, hlen⟩]
    rfl
  · have hfits : ¬ (3 ≤ v.toNat % 16 ∧ 256 < s.len.toNat) := fun ⟨hthree, hlong⟩ =>
      Nat.not_le.mpr hlong (hlen ((checksLen_iff_of_decodeWord hd).mpr hthree))
    rw [if_neg (not_reserved_of_decodeWord hd), if_neg hfits]
    rfl

/-- Settles O15: the write is the BAD_OP case of O14. -/
theorem reservedOpExampleFromReset : Obligations.ReservedOpExampleFromReset := by
  refine ⟨_, (cmdWriteWhileIdleIsValidated _ 0x7#32 [] ?_ ?_).trans (if_pos (by decide)), rfl, rfl⟩
  · rfl
  · rfl

/-! ## The engine's turn -/

/-- Settles O17: a turn left by an ended schedule or named by it is the engine's. -/
theorem engineTurnWithoutACommand : Obligations.EngineTurnWithoutACommand := by
  refine fun s => ⟨fun hb => ⟨fun hi => ?_, fun rest hi => ?_⟩, fun hb hop hturn => ?_⟩
  · rw [step_of_idle hb (by rw [State.isEngineTurn, hi]), hi, List.tail_nil, ← hi]
  · rw [step_of_idle hb (by rw [State.isEngineTurn, hi]), hi, List.tail_cons]
  · exact (step_of_isEngineTurn hturn).trans (engineTurn_reserved hb hop)

/-- Settles O18: the arm of NOP is the completion alone. -/
theorem nopCompletes : Obligations.NopCompletes := fun _ => rfl

/-! ## Progress and completion -/

/-- Settles O43: only the engine can stop, and under the invariant a started command decodes. -/
theorem stepNeverStops : Obligations.StepNeverStops := by
  intro s hs
  obtain ⟨-, hstarted, -⟩ := (inv_iff s).mp hs
  have hop : s.busy = true → (decodeOp s.lastop).isSome = true := fun hb => by
    obtain ⟨-, i, hd, -⟩ := (startedOk_iff s).mp hstarted hb
    rw [hd]
    rfl
  rcases step_cases s with ⟨-, h⟩ | ⟨rest, -, h⟩ | ⟨a, rest, -, h⟩ | ⟨rest, -, h⟩
  · rw [h]
    exact exists_next_of_engineTurn hop
  · rw [h]
    exact exists_next_of_engineTurn (s := { s with inputs := rest }) hop
  · exact ⟨_, h⟩
  · exact ⟨_, h⟩

/-- Settles O49, by induction on the inputs left: a host access keeps the command started, and the engine's
turn, named or left, completes it. -/
theorem aStartedCommandCompletes : Obligations.AStartedCommandCompletes := by
  intro s hb hop hreset
  induction hi : s.inputs generalizing s with
  | nil =>
    obtain ⟨t, hstep, hidle, hdone⟩ := step_completes hb hop (by rw [State.isEngineTurn, hi])
    exact ⟨1, t, le_rfl, run_succ_of_step hstep 0, hidle, hdone⟩
  | cons i rest ih =>
    rw [hi, List.mem_cons, not_or] at hreset
    obtain ⟨hhead, hrest⟩ := hreset
    cases i with
    | access a =>
      have ha := keptWhileBusy_hostAccess (s := { s with inputs := rest }) hb a
      obtain ⟨k, t, hk, hrun, hend⟩ := ih (State.hostAccess { s with inputs := rest } a) (ha.busy.trans hb)
        (by rw [ha.lastop]; exact hop) (by rw [ha.inputs]; exact hrest) ha.inputs
      exact ⟨k + 1, t, Nat.succ_le_succ hk, (run_succ_of_step (step_of_access hi) k).trans hrun, hend⟩
    | engine =>
      obtain ⟨t, hstep, hidle, hdone⟩ := step_completes hb hop (by rw [State.isEngineTurn, hi])
      exact ⟨1, t, Nat.le_add_left 1 _, run_succ_of_step hstep 0, hidle, hdone⟩
    | reset => exact absurd rfl hhead

end Sys2Proof.Machine
end

section
/-! SUPPORT. The rules the statements of 41_aes.md rest on: the field product is bilinear, commutative and
associative; circulant columns compose; a block by its cells and the expanded key by its words; each round
step and its inverse cancel. -/

namespace Sys2Proof.Machine

/-! ## Field arithmetic (R108) -/

/-- A term that stands or not by a bit is additive in the bit. -/
theorem ite_xor_bit (p q : Bool) (x : Byte) :
    (if p ^^ q then x else 0) = (if p then x else 0) ^^^ (if q then x else 0) := by
  cases p <;> cases q <;> simp

/-- A term that stands or not by a bit is additive in its value. -/
theorem ite_xor_value (p : Bool) (x y : Byte) :
    (if p then x ^^^ y else 0) = (if p then x else 0) ^^^ (if p then y else 0) := by
  cases p <;> simp

theorem xtime_xor (a b : Byte) : xtime (a ^^^ b) = xtime a ^^^ xtime b := by
  simp only [xtime, BitVec.shiftLeft_xor_distrib, BitVec.getLsbD_xor, ite_xor_bit]
  ac_rfl

theorem xtime_zero : xtime 0 = 0 := rfl

/-- The branch of `xtime` on the top bit is a comparison with 128. -/
theorem toNat_xtime (a : Byte) :
    (xtime a).toNat = (2 * a.toNat % 256) ^^^ (if 128 ≤ a.toNat then 0x1B else 0) := by
  have htop : a.getLsbD 7 = decide (128 ≤ a.toNat) := BitVec.msb_eq_decide a
  rw [xtime, BitVec.toNat_xor, BitVec.toNat_shiftLeft, Nat.shiftLeft_eq, htop, Nat.mul_comm]
  by_cases h : 128 ≤ a.toNat <;> simp [h]

theorem xtimePow_xor (k : Nat) (a b : Byte) : xtimePow k (a ^^^ b) = xtimePow k a ^^^ xtimePow k b := by
  induction k with
  | zero => rfl
  | succ k ih => rw [xtimePow, ih, xtime_xor]; rfl

theorem xtimePow_xtime (k : Nat) (a : Byte) : xtimePow k (xtime a) = xtime (xtimePow k a) := by
  induction k with
  | zero => rfl
  | succ k ih => rw [xtimePow, ih]; rfl

theorem gmulBits_xor_left (a b c : Byte) (k : Nat) :
    gmulBits (a ^^^ b) c k = gmulBits a c k ^^^ gmulBits b c k := by
  induction k with
  | zero => exact BitVec.xor_zero.symm
  | succ k ih =>
    simp only [gmulBits, ih, xtimePow_xor, ite_xor_value]
    ac_rfl

theorem gmulBits_xor_right (a b c : Byte) (k : Nat) :
    gmulBits a (b ^^^ c) k = gmulBits a b k ^^^ gmulBits a c k := by
  induction k with
  | zero => exact BitVec.xor_zero.symm
  | succ k ih =>
    simp only [gmulBits, ih, BitVec.getLsbD_xor, ite_xor_bit]
    ac_rfl

theorem gmul_xor_left (a b c : Byte) : gmul (a ^^^ b) c = gmul a c ^^^ gmul b c := gmulBits_xor_left a b c 8

theorem gmul_xor_right (a b c : Byte) : gmul a (b ^^^ c) = gmul a b ^^^ gmul a c := gmulBits_xor_right a b c 8

theorem gmul_xtime_left (a b : Byte) : gmul (xtime a) b = xtime (gmul a b) := by
  have h (k : Nat) : gmulBits (xtime a) b k = xtime (gmulBits a b k) := by
    induction k with
    | zero => exact xtime_zero.symm
    | succ k ih => rw [gmulBits, gmulBits, ih, xtimePow_xtime, xtime_xor, apply_ite xtime, xtime_zero]
  exact h 8

theorem gmul_xtimePow_left (k : Nat) (a b : Byte) : gmul (xtimePow k a) b = xtimePow k (gmul a b) := by
  induction k with
  | zero => rfl
  | succ k ih => rw [xtimePow, xtimePow, gmul_xtime_left, ih]

theorem gmul_zero_right (a : Byte) : gmul a 0 = 0 := by simp [gmul, gmulBits]

theorem gmul_zero_left (b : Byte) : gmul 0 b = 0 := by
  simpa using gmul_xor_left b b b

theorem gmul_one_left (b : Byte) : gmul 0x01 b = b := by
  revert b; decide +kernel

/-- The sum that defines `a • b` is a left multiple of `a`: the terms `xtime^j(a)` are, and left multiples add. -/
theorem gmulBits_eq_gmul (a b : Byte) (k : Nat) : gmulBits a b k = gmul (gmulBits 0x01 b k) a := by
  induction k with
  | zero => exact (gmul_zero_left a).symm
  | succ k ih =>
    rw [gmulBits, gmulBits, gmul_xor_left, ← ih, apply_ite (gmul · a), gmul_xtimePow_left, gmul_one_left,
      gmul_zero_left]

theorem gmul_comm (a b : Byte) : gmul a b = gmul b a :=
  calc gmul a b = gmul (gmul 0x01 b) a := gmulBits_eq_gmul a b 8
    _ = gmul b a := by rw [gmul_one_left]

theorem gmul_one_right (a : Byte) : gmul a 0x01 = a := by rw [gmul_comm, gmul_one_left]

theorem gmul_xtime_right (a b : Byte) : gmul a (xtime b) = xtime (gmul a b) := by
  rw [gmul_comm, gmul_xtime_left, gmul_comm]

theorem gmul_two_right (a : Byte) : gmul a 0x02 = xtime a :=
  calc gmul a 0x02 = gmul a (xtime 0x01) := rfl
    _ = xtime a := by rw [gmul_xtime_right, gmul_one_right]

theorem gmul_assoc (a b c : Byte) : gmul (gmul a b) c = gmul a (gmul b c) := by
  have h (k : Nat) : gmulBits (gmul a b) c k = gmul a (gmulBits b c k) := by
    induction k with
    | zero => exact (gmul_zero_right a).symm
    | succ k ih =>
      rw [gmulBits, gmulBits, ih, gmul_xor_right, apply_ite (gmul a), gmul_zero_right, gmul_comm a (xtimePow k b),
        gmul_xtimePow_left, gmul_comm b a]
  exact h 8

/-! ## The S-boxes (R109 to R111) -/

/-- The inverse of the affine map of R109. -/
def sboxAffineInv (b : Byte) : Byte := b.rotateLeft 1 ^^^ b.rotateLeft 3 ^^^ b.rotateLeft 6 ^^^ 0x05

theorem sboxAffine_sboxAffineInv (b : Byte) : sboxAffine (sboxAffineInv b) = b := by
  revert b; decide +kernel

/-- Undoing the affine map on the table leaves the multiplicative inverse. -/
theorem gmul_sboxAffineInv_sbox {a : Byte} (h : a ≠ 0x00) : gmul a (sboxAffineInv (sbox a)) = 0x01 := by
  revert a; decide +kernel

@[simp] theorem invSbox_sbox (a : Byte) : invSbox (sbox a) = a := by
  revert a; decide +kernel

@[simp] theorem sbox_invSbox (a : Byte) : sbox (invSbox a) = a := by
  revert a; decide +kernel

/-- An inverse in the field is unique. -/
theorem eq_of_gmul_eq_one {a b c : Byte} (hb : gmul a b = 0x01) (hc : gmul a c = 0x01) : b = c :=
  calc b = gmul (gmul a c) b := by rw [hc, gmul_one_left]
    _ = gmul c (gmul a b) := by rw [gmul_comm a c, gmul_assoc]
    _ = c := by rw [hb, gmul_one_right]

theorem ne_zero_of_gmul_eq_one {a b : Byte} (h : gmul a b = 0x01) : a ≠ 0x00 := by
  rintro rfl
  rw [gmul_zero_left] at h
  exact absurd h (by decide)

/-! ## Circulant columns (R114, R115) -/

/-- A circulant matrix after another is circulant; its first row is the product of the first rows. -/
theorem mixWith_mixWith (m0 m1 m2 m3 n0 n1 n2 n3 : Byte) (q : Quad) :
    mixWith n0 n1 n2 n3 (mixWith m0 m1 m2 m3 q) = mixWith
      (gmul m0 n0 ^^^ gmul m3 n1 ^^^ gmul m2 n2 ^^^ gmul m1 n3)
      (gmul m1 n0 ^^^ gmul m0 n1 ^^^ gmul m3 n2 ^^^ gmul m2 n3)
      (gmul m2 n0 ^^^ gmul m1 n1 ^^^ gmul m0 n2 ^^^ gmul m3 n3)
      (gmul m3 n0 ^^^ gmul m2 n1 ^^^ gmul m1 n2 ^^^ gmul m0 n3) q := by
  simp only [mixWith, gmul_xor_left, gmul_xor_right, gmul_assoc, Quad.mk.injEq]
  refine ⟨?_, ?_, ?_, ?_⟩ <;> ac_rfl

theorem mixWith_one (q : Quad) : mixWith 0x01 0 0 0 q = q := by
  simp only [mixWith, gmul_one_right, gmul_zero_right]
  simp only [BitVec.ofNat_eq_ofNat, BitVec.xor_zero, BitVec.zero_xor]

/-- The product of the two first rows, `02 03 01 01` and `0e 0b 0d 09`, is `01 00 00 00`, by evaluation. -/
@[simp] theorem invMixQuad_mixQuad (q : Quad) : invMixQuad (mixQuad q) = q :=
  (mixWith_mixWith ..).trans (mixWith_one q)

/-- The same product of rows in the other order. -/
@[simp] theorem mixQuad_invMixQuad (q : Quad) : mixQuad (invMixQuad q) = q :=
  (mixWith_mixWith ..).trans (mixWith_one q)

/-! ## Cells and key words (R107, R116, R117) -/

/-- `s[r][c]` is byte `r` of column `c`. -/
theorem cell_eq (x : Block) (r c : Fin 4) : cell x r c = (x.quad c).toList.getD r 0 := by
  fin_cases c <;> fin_cases r <;> rfl

theorem getD_toList_map (f : Byte → Byte) (q : Quad) (r : Fin 4) :
    (q.map f).toList.getD r 0 = f (q.toList.getD r 0) := by
  fin_cases r <;> rfl

theorem getD_toList_xor (p q : Quad) (r : Fin 4) :
    (p.xor q).toList.getD r 0 = p.toList.getD r 0 ^^^ q.toList.getD r 0 := by
  fin_cases r <;> rfl

theorem quad_map (f : Byte → Byte) (x : Block) (c : Fin 4) : (x.map f).quad c = (x.quad c).map f := by
  fin_cases c <;> rfl

theorem quad_xor (x y : Block) (c : Fin 4) : (x.xor y).quad c = (x.quad c).xor (y.quad c) := by
  fin_cases c <;> rfl

theorem quad_mixColumns (x : Block) (c : Fin 4) : (mixColumns x).quad c = mixQuad (x.quad c) := by
  fin_cases c <;> rfl

theorem quad_invMixColumns (x : Block) (c : Fin 4) : (invMixColumns x).quad c = invMixQuad (x.quad c) := by
  fin_cases c <;> rfl

theorem cell_map (f : Byte → Byte) (x : Block) (r c : Fin 4) : cell (x.map f) r c = f (cell x r c) := by
  rw [cell_eq, cell_eq, quad_map, getD_toList_map]

theorem cell_shiftRows (x : Block) (r c : Fin 4) : cell (shiftRows x) r c = cell x r ((c + r) % 4) := by
  fin_cases r <;> fin_cases c <;> rfl

theorem cell_invShiftRows (x : Block) (r c : Fin 4) : cell (invShiftRows x) r ((c + r) % 4) = cell x r c := by
  fin_cases r <;> fin_cases c <;> rfl

theorem cell_zero (x : Block) (c : Fin 4) : cell x 0 c = (x.quad c).b0 := cell_eq x 0 c

theorem cell_one (x : Block) (c : Fin 4) : cell x 1 c = (x.quad c).b1 := cell_eq x 1 c

theorem cell_two (x : Block) (c : Fin 4) : cell x 2 c = (x.quad c).b2 := cell_eq x 2 c

theorem cell_three (x : Block) (c : Fin 4) : cell x 3 c = (x.quad c).b3 := cell_eq x 3 c

/-- Word `4·rnd + c` of the expanded key is column `c` of round key `rnd`. -/
theorem keyWord_four_mul_add (k : Block) (rnd : Nat) (c : Fin 4) :
    keyWord k (4 * rnd + c) = (roundKey k rnd).quad c := by
  have hdiv : (4 * rnd + c.val) / 4 = rnd := by omega
  have hmod : Fin.ofNat 4 (4 * rnd + c.val) = c := Fin.ext (by simp)
  rw [keyWord, hdiv, hmod]

theorem keyWord_first (k : Block) (rnd : Nat) : keyWord k (4 * rnd) = (roundKey k rnd).q0 :=
  keyWord_four_mul_add k rnd 0

theorem keyWord_second (k : Block) (rnd : Nat) : keyWord k (4 * rnd + 1) = (roundKey k rnd).q1 :=
  keyWord_four_mul_add k rnd 1

theorem keyWord_third (k : Block) (rnd : Nat) : keyWord k (4 * rnd + 2) = (roundKey k rnd).q2 :=
  keyWord_four_mul_add k rnd 2

theorem keyWord_fourth (k : Block) (rnd : Nat) : keyWord k (4 * rnd + 3) = (roundKey k rnd).q3 :=
  keyWord_four_mul_add k rnd 3

/-- A cell of the round key, out of its word of the expanded key. -/
theorem cell_addRoundKey (k x : Block) (rnd : Nat) (r c : Fin 4) : cell (addRoundKey k rnd x) r c =
    cell x r c ^^^ (keyWord k (4 * rnd + c)).toList.getD r 0 := by
  rw [cell_eq, cell_eq, keyWord_four_mul_add, addRoundKey, quad_xor, getD_toList_xor]

/-- A round key is its four words of the expanded key. -/
theorem toList_roundKey (k : Block) (rnd : Nat) : (roundKey k rnd).toList =
    (keyWord k (4 * rnd)).toList ++ (keyWord k (4 * rnd + 1)).toList ++ (keyWord k (4 * rnd + 2)).toList ++
      (keyWord k (4 * rnd + 3)).toList := by
  rw [keyWord_first, keyWord_second, keyWord_third, keyWord_fourth, Block.toList]

/-- The first word of a round key takes the substituted, rotated last word of the one before, and the
round constant. -/
theorem keyWord_succ_first (k : Block) (j : Nat) : keyWord k (4 * (j + 1)) = (keyWord k (4 * j)).xor
    ⟨sbox (keyWord k (4 * j + 3)).b1 ^^^ rcon (j + 1), sbox (keyWord k (4 * j + 3)).b2,
      sbox (keyWord k (4 * j + 3)).b3, sbox (keyWord k (4 * j + 3)).b0⟩ := by
  simp only [keyWord_first, keyWord_fourth, roundKey, nextRoundKey, subWord, rotWord, Quad.map, Quad.xor,
    BitVec.ofNat_eq_ofNat, BitVec.xor_zero]

/-- Every other word takes the word before it. -/
theorem keyWord_succ_succ (k : Block) (j : Nat) (c : Fin 3) : keyWord k (4 * (j + 1) + c.succ) =
    (keyWord k (4 * j + c.succ)).xor (keyWord k (4 * (j + 1) + c.castSucc)) := by
  simp only [keyWord_four_mul_add, roundKey]
  fin_cases c <;> rfl

/-! ## Each step and its inverse cancel (R121) -/

theorem map_map_cancel {f g : Byte → Byte} (h : ∀ b, f (g b) = b) (x : Block) : (x.map g).map f = x := by
  simp only [Block.map, Quad.map, h]

theorem xor_xor_cancel (x y : Block) : (x.xor y).xor y = x := by
  simp only [Block.xor, Quad.xor, BitVec.xor_assoc, BitVec.xor_self, BitVec.xor_zero]

@[simp] theorem invSubBytes_subBytes (x : Block) : invSubBytes (subBytes x) = x :=
  map_map_cancel invSbox_sbox x

@[simp] theorem subBytes_invSubBytes (x : Block) : subBytes (invSubBytes x) = x :=
  map_map_cancel sbox_invSbox x

@[simp] theorem invShiftRows_shiftRows (x : Block) : invShiftRows (shiftRows x) = x := rfl

@[simp] theorem shiftRows_invShiftRows (x : Block) : shiftRows (invShiftRows x) = x := rfl

@[simp] theorem invMixColumns_mixColumns (x : Block) : invMixColumns (mixColumns x) = x := by
  simp only [invMixColumns, mixColumns, invMixQuad_mixQuad]

@[simp] theorem mixColumns_invMixColumns (x : Block) : mixColumns (invMixColumns x) = x := by
  simp only [invMixColumns, mixColumns, mixQuad_invMixQuad]

@[simp] theorem addRoundKey_addRoundKey (k : Block) (rnd : Nat) (x : Block) :
    addRoundKey k rnd (addRoundKey k rnd x) = x := xor_xor_cancel x _

/-! ## The rounds cancel (R121) -/

/-- The inverse rounds start one step ahead of where the rounds end: SubBytes and ShiftRows of the last
round stand before them. -/
theorem decRounds_encRounds (k : Block) (n : Nat) (s : Block) :
    decRounds k n (shiftRows (subBytes (encRounds k n s))) = shiftRows (subBytes s) := by
  induction n with
  | zero => rfl
  | succ n ih => simp [decRounds, encRounds, ih]

theorem encRounds_decRounds (k : Block) (n : Nat) (s : Block) :
    encRounds k n (invSubBytes (invShiftRows (decRounds k n s))) = invSubBytes (invShiftRows s) := by
  induction n generalizing s with
  | zero => rfl
  | succ n ih => simp [decRounds, encRounds, ih]

theorem aesD_aesE (k x : Block) : aesD k (aesE k x) = x := by
  simp [aesD, aesE, decRounds_encRounds]

theorem aesE_aesD (k x : Block) : aesE k (aesD k x) = x := by
  simp [aesD, aesE, encRounds_decRounds]

end Sys2Proof.Machine
end

section
/-! SUPPORT. The statements of 41_aes.md: the field and the tables, the round steps, the key expansion, the
ciphers, and the two commands. -/

namespace Sys2Proof.Machine

/-! ## The field and the tables -/

/-- Settles O26: the product is a left multiple of each factor, so it commutes, and what holds of its left
factor holds of its right one. -/
theorem fieldProductIsCommutativeAndDistributes : Obligations.FieldProductIsCommutativeAndDistributes :=
  ⟨toNat_xtime, gmul_comm, gmul_xor_right, gmul_xtime_right, gmul_two_right, gmul_one_right⟩

/-- Settles O27: the inverse is unique, so it is the one the table's entry is the affine map of. -/
theorem sboxIsTheAffineMapOfTheInverse : Obligations.SboxIsTheAffineMapOfTheInverse := by
  refine ⟨rfl, fun a b h => ?_, fun a ha => ⟨_, gmul_sboxAffineInv_sbox ha⟩, invSbox_sbox, sbox_invSbox⟩
  rw [eq_of_gmul_eq_one h (gmul_sboxAffineInv_sbox (ne_zero_of_gmul_eq_one h)), sboxAffine_sboxAffineInv]

/-- Settles O29: `RCON[j+1]` is one more turn of `xtime^(j-1)`. -/
theorem roundConstants : Obligations.RoundConstants := by
  refine ⟨rfl, fun j hj => ?_, by decide⟩
  obtain ⟨n, rfl⟩ := Nat.exists_eq_add_of_le' hj
  rfl

/-! ## The round steps and the key expansion -/

/-- Settles O56: SubBytes and AddRoundKey act on each byte, ShiftRows is checked at its sixteen places, and
MixColumns acts on each column, where the model's products have the constant second. -/
theorem roundStepsByPosition : Obligations.RoundStepsByPosition := by
  intro k s rnd r c
  refine ⟨cell_map sbox s r c, cell_map invSbox s r c, cell_shiftRows s r c, cell_invShiftRows s r c,
    ?_, ?_, ?_, ?_, ?_, ?_, ?_, ?_, cell_addRoundKey k s rnd r c, toList_roundKey k rnd⟩ <;>
  simp only [cell_zero, cell_one, cell_two, cell_three, quad_mixColumns, quad_invMixColumns, mixQuad, invMixQuad,
    mixWith, gmul_one_right, gmul_comm 0x02, gmul_comm 0x03, gmul_comm 0x09, gmul_comm 0x0b, gmul_comm 0x0d,
    gmul_comm 0x0e]

/-- Settles O28: words `4(j+1)` to `4(j+1) + 3` are the columns of round key `j + 1`, each made of the word
before it and the same column of round key `j`. -/
theorem keyExpansionFollowsItsLoop : Obligations.KeyExpansionFollowsItsLoop := by
  refine ⟨fun k i => ?_, fun k i hi _ => ?_, by decide +kernel⟩
  · simpa only [Nat.mul_zero, Nat.zero_add, roundKey] using keyWord_four_mul_add k 0 i
  · split
    · next hmod =>
      obtain ⟨j, rfl⟩ : ∃ j, i = 4 * (j + 1) := ⟨i / 4 - 1, by omega⟩
      rw [keyWord_succ_first, show 4 * (j + 1) - 4 = 4 * j by omega, show 4 * (j + 1) - 1 = 4 * j + 3 by omega,
        show 4 * (j + 1) / 4 = j + 1 by omega]
    · next hmod =>
      obtain ⟨j, c, rfl⟩ : ∃ (j : Nat) (c : Fin 3), i = 4 * (j + 1) + c.succ :=
        ⟨i / 4 - 1, ⟨i % 4 - 1, by omega⟩, by simp only [Fin.val_succ]; omega⟩
      rw [keyWord_succ_succ]
      simp only [Fin.val_succ, Fin.val_castSucc]
      rw [show 4 * (j + 1) + (c.val + 1) - 4 = 4 * j + (c.val + 1) by omega,
        show 4 * (j + 1) + (c.val + 1) - 1 = 4 * (j + 1) + c.val by omega]

/-- Settles O30: the tables undo each other on every byte, the two matrices multiply to the identity, and
exclusive-or with the same round key twice is nothing. -/
theorem inverseRoundStepsUndoTheRoundSteps : Obligations.InverseRoundStepsUndoTheRoundSteps := fun k x rnd =>
  ⟨invSubBytes_subBytes x, subBytes_invSubBytes x, invShiftRows_shiftRows x, shiftRows_invShiftRows x,
    invMixColumns_mixColumns x, mixColumns_invMixColumns x, addRoundKey_addRoundKey k rnd x⟩

/-! ## The ciphers -/

/-- Settles O57: the recursion over nine rounds unfolds to the fold over their numbers. -/
theorem ciphersAreTheirRounds : Obligations.CiphersAreTheirRounds := fun _ _ => ⟨rfl, rfl⟩

/-- Settles O31: the rounds cancel from the inside out, and a map with an inverse on both sides is bijective. -/
theorem inverseCipherInvertsTheCipher : Obligations.InverseCipherInvertsTheCipher :=
  ⟨aesD_aesE, aesE_aesD, fun k => Function.bijective_iff_has_inverse.mpr ⟨aesD k, aesD_aesE k, aesE_aesD k⟩⟩

/-! ## The commands -/

/-- Settles O19: the completion after the store of DOUT, by evaluation. -/
theorem aesEncCompletes : Obligations.AesEncCompletes := fun _ => rfl

/-- Settles O20: as AES_ENC, with the inverse cipher. -/
theorem aesDecCompletes : Obligations.AesDecCompletes := fun _ => rfl

/-- Settles O32: the two completions, with the inverse cipher on the cipher. -/
theorem aesDecReturnsWhatAesEncTook : Obligations.AesDecReturnsWhatAesEncTook := by
  intro s
  refine ⟨_, aesEncCompletes s, fun t' hkey hdin => ⟨_, aesDecCompletes t', ?_⟩⟩
  simp only [hkey, hdin, aesD_aesE]

end Sys2Proof.Machine
end

section
/-! SUPPORT. The rules the statements of 42_cmac.md rest on: byte strings as numbers, most significant byte
first, under a shift by one bit and an exclusive-or in the last byte; and the division of a message into whole
blocks and a last part, with the chain over them. -/

namespace Sys2Proof.Machine

/-! ## Byte strings as numbers (R14) -/

@[simp] theorem length_toList (x : Block) : x.toList.length = 16 := rfl

/-- A byte string as a number, first byte most significant. -/
def bytesInt (l : List Byte) : Nat := l.foldl (fun acc b => 256 * acc + b.toNat) 0

theorem blockInt_eq_bytesInt (x : Block) : blockInt x = bytesInt x.toList := rfl

@[simp] theorem bytesInt_nil : bytesInt [] = 0 := rfl

theorem bytesInt_concat (l : List Byte) (b : Byte) : bytesInt (l ++ [b]) = 256 * bytesInt l + b.toNat := by
  rw [bytesInt, List.foldl_append]
  rfl

theorem bytesInt_cons (b : Byte) (l : List Byte) :
    bytesInt (b :: l) = 256 ^ l.length * b.toNat + bytesInt l := by
  induction l using List.reverseRecOn with
  | nil => simp [bytesInt]
  | append_singleton l c ih =>
    rw [← List.cons_append, bytesInt_concat, bytesInt_concat, ih, List.length_append, List.length_singleton,
      Nat.pow_succ]
    ring

theorem bytesInt_lt (l : List Byte) : bytesInt l < 256 ^ l.length := by
  induction l using List.reverseRecOn with
  | nil => simp
  | append_singleton l b ih =>
    have hb := b.isLt
    rw [bytesInt_concat, List.length_append, List.length_singleton, Nat.pow_succ]
    omega

/-- An exclusive-or that stays in the last byte. -/
theorem mul_add_toNat_xor (n : Nat) (b c : Byte) :
    (256 * n + b.toNat) ^^^ c.toNat = 256 * n + (b ^^^ c).toNat := by
  have hb := b.isLt
  have hc := c.isLt
  have hbc := (b ^^^ c).isLt
  have hdiv : ((256 * n + b.toNat) ^^^ c.toNat) / 2 ^ 8 = n := by
    rw [Nat.xor_div_two_pow, Nat.div_eq_of_lt hc, Nat.xor_zero]
    omega
  have hmod : ((256 * n + b.toNat) ^^^ c.toNat) % 2 ^ 8 = (b ^^^ c).toNat := by
    rw [Nat.xor_mod_two_pow, Nat.mod_eq_of_lt hc, Nat.mul_add_mod, Nat.mod_eq_of_lt hb, BitVec.toNat_xor]
  omega

/-! ## Doubling (R124) -/

/-- The branch of `dbl` on the top bit is a comparison with 128. -/
theorem getLsbD_seven_eq (b : Byte) : b.getLsbD 7 = decide (128 ≤ b.toNat) := BitVec.msb_eq_decide b

theorem toNat_shiftIn (x next : Byte) : (shiftIn x next).toNat = (2 * x.toNat + next.toNat / 128) % 256 := by
  have hnext := next.isLt
  have hbit : (bit (next.getLsbD 7) : Byte).toNat = next.toNat / 128 := by
    rw [getLsbD_seven_eq]
    by_cases h : 128 ≤ next.toNat
    · rw [decide_eq_true h, show next.toNat / 128 = 1 by omega]
      rfl
    · rw [decide_eq_false h, show next.toNat / 128 = 0 by omega]
      rfl
  have hshift : (x <<< 1).toNat = (x.toNat % 128) <<< 1 := by
    rw [BitVec.toNat_shiftLeft, Nat.shiftLeft_eq, Nat.shiftLeft_eq]
    omega
  rw [shiftIn, BitVec.toNat_or, hbit, hshift, Nat.or_comm, or_shiftLeft_eq_add _ (by omega)]
  omega

/-- The bit that a shift moves out of a byte string is its first byte's top bit. -/
theorem bytesInt_cons_carry (b : Byte) (l : List Byte) :
    2 * bytesInt (b :: l) / 256 ^ (l.length + 1) = b.toNat / 128 := by
  have hhigh : bytesInt (b :: l) / 256 ^ l.length = b.toNat := by
    rw [bytesInt_cons, Nat.mul_add_div (by positivity), Nat.div_eq_of_lt (bytesInt_lt l), Nat.add_zero]
  rw [show 256 ^ (l.length + 1) = 2 * (256 ^ l.length * 128) by ring, Nat.mul_div_mul_left _ _ (by decide),
    ← Nat.div_div_eq_div_mul, hhigh]

/-- Doubling below a byte carries into that byte. -/
theorem two_mul_mul_add_mod {N : Nat} (hN : 0 < N) (a v : Nat) :
    2 * (N * a + v) % (N * 256) = N * ((2 * a + 2 * v / N) % 256) + 2 * v % N := by
  rw [Nat.mul_add, Nat.mul_left_comm, Nat.mod_mul, Nat.mul_add_mod, Nat.mul_add_div hN, Nat.add_comm]

/-- Each byte's top bit moves into the byte before it. -/
theorem bytesInt_shiftIn (l : List Byte) :
    bytesInt (List.zipWith shiftIn l (l.tail ++ [0x00])) = 2 * bytesInt l % 256 ^ l.length := by
  induction l with
  | nil => rfl
  | cons x l ih =>
    cases l with
    | nil => simp [bytesInt_cons, toNat_shiftIn]
    | cons y l =>
      have hlen : (List.zipWith shiftIn (y :: l) (l ++ [0x00])).length = l.length + 1 := by simp
      calc bytesInt (shiftIn x y :: List.zipWith shiftIn (y :: l) (l ++ [0x00]))
        _ = 256 ^ (l.length + 1) * ((2 * x.toNat + 2 * bytesInt (y :: l) / 256 ^ (l.length + 1)) % 256)
            + 2 * bytesInt (y :: l) % 256 ^ (l.length + 1) := by
          rw [bytesInt_cons, hlen, toNat_shiftIn, bytesInt_cons_carry]
          exact congrArg _ ih
        _ = 2 * bytesInt (x :: y :: l) % 256 ^ (l.length + 1 + 1) := by
          rw [bytesInt_cons x, Nat.pow_succ 256 (l.length + 1), ← two_mul_mul_add_mod (by positivity)]
          rfl

theorem blockInt_shiftLeftOne (x : Block) : blockInt (shiftLeftOne x) = 2 * blockInt x % 2 ^ 128 := by
  have h := bytesInt_shiftIn x.toList
  rw [length_toList] at h
  exact h

theorem blockInt_xor_lastByte (x : Block) (c : Byte) :
    blockInt (x.xor (lastByte c)) = blockInt x ^^^ c.toNat := by
  have hx := bytesInt_concat (x.toList.take 15) x.q3.b3
  have hxor : (x.xor (lastByte c)).toList = x.toList.take 15 ++ [x.q3.b3 ^^^ c] := by
    simp [Block.xor, Quad.xor, lastByte, Block.toList, Quad.toList]
  rw [blockInt_eq_bytesInt, hxor, bytesInt_concat, ← mul_add_toNat_xor, ← hx]
  rfl

/-- R124 branches on X[0][7]: the top bit of the block as a number. -/
theorem topBit_eq_decide_blockInt (x : Block) : x.q0.b0.getLsbD 7 = decide (2 ^ 127 ≤ blockInt x) := by
  have hrest := bytesInt_lt x.toList.tail
  have hx : blockInt x = 256 ^ 15 * x.q0.b0.toNat + bytesInt x.toList.tail := bytesInt_cons x.q0.b0 x.toList.tail
  rw [List.length_tail, length_toList] at hrest
  rw [getLsbD_seven_eq, decide_eq_decide]
  omega

/-! ## Whole blocks, the last block and the chain (R127, R128) -/

@[simp] theorem ofList_toList (x : Block) : Block.ofList x.toList = x := rfl

theorem length_flatMap_toList (bs : List Block) : (bs.flatMap Block.toList).length = 16 * bs.length := by
  induction bs with
  | nil => rfl
  | cons b bs ih => rw [List.flatMap_cons, List.length_append, ih, length_toList, List.length_cons]; omega

theorem fullBlocks_flatMap_append (bs : List Block) (rest : List Byte) :
    fullBlocks bs.length (bs.flatMap Block.toList ++ rest) = bs := by
  induction bs with
  | nil => rfl
  | cons b bs ih =>
    rw [List.flatMap_cons, List.append_assoc, List.length_cons, fullBlocks, List.take_left' (length_toList b),
      List.drop_left' (length_toList b), ofList_toList, ih]

theorem drop_flatMap_append (bs : List Block) (rest : List Byte) :
    (bs.flatMap Block.toList ++ rest).drop (16 * bs.length) = rest :=
  List.drop_left' (length_flatMap_toList bs)

/-- The chain over blocks and one more (R128). -/
theorem cbcMac_concat (k x : Block) (bs : List Block) (b : Block) :
    cbcMac k x (bs ++ [b]) = aesE k ((bs.foldl (fun x y => aesE k (x.xor y)) x).xor b) := by
  induction bs generalizing x with
  | nil => rfl
  | cons c bs ih => exact ih (aesE k (x.xor c))

/-- The tag of a message whose first blocks are `bs`, up to its last block (R127, R128). -/
theorem cmacTag_flatMap_append (k : Block) (bs : List Block) (rest : List Byte)
    (h : headCount (bs.flatMap Block.toList ++ rest) = bs.length) :
    cmacTag k (bs.flatMap Block.toList ++ rest) =
      aesE k ((bs.foldl (fun x y => aesE k (x.xor y)) Block.zero).xor
        (if isComplete (bs.flatMap Block.toList ++ rest) then (Block.ofList rest).xor (cmacK1 k)
          else (padBlock rest).xor (cmacK2 k))) := by
  rw [cmacTag, cmacBlocks, lastBlock, h, fullBlocks_flatMap_append, drop_flatMap_append, cbcMac_concat]

theorem isComplete_flatMap_append_iff (bs : List Block) (rest : List Byte) :
    isComplete (bs.flatMap Block.toList ++ rest) = true ↔
      0 < 16 * bs.length + rest.length ∧ rest.length % 16 = 0 := by
  simp only [isComplete, Bool.and_eq_true, decide_eq_true_eq, List.length_append, length_flatMap_toList]
  omega

theorem isComplete_whole (bs : List Block) (b : Block) : isComplete (bs.flatMap Block.toList ++ b.toList) = true :=
  (isComplete_flatMap_append_iff bs b.toList).mpr (by simp)

/-- A whole last block is no head block (R127). -/
theorem headCount_whole (bs : List Block) (b : Block) :
    headCount (bs.flatMap Block.toList ++ b.toList) = bs.length := by
  rw [headCount, isComplete_whole, if_pos rfl, List.length_append, length_flatMap_toList, length_toList]
  omega

/-- A message that ends in fewer bytes than a block is not whole blocks; a rest of no bytes is only the empty
message (R127). -/
theorem isComplete_rest {bs : List Block} {rest : List Byte} (hlt : rest.length < 16) (hnil : rest = [] → bs = []) :
    isComplete (bs.flatMap Block.toList ++ rest) = false := by
  rw [Bool.eq_false_iff, ne_eq, isComplete_flatMap_append_iff]
  rintro ⟨hpos, hmod⟩
  have hrest : rest = [] := List.eq_nil_of_length_eq_zero (by omega)
  simp [hrest, hnil hrest] at hpos

theorem headCount_rest {bs : List Block} {rest : List Byte} (hlt : rest.length < 16) (hnil : rest = [] → bs = []) :
    headCount (bs.flatMap Block.toList ++ rest) = bs.length := by
  rw [headCount, isComplete_rest hlt hnil, if_neg Bool.false_ne_true, List.length_append, length_flatMap_toList]
  omega

end Sys2Proof.Machine
end

section
/-! SUPPORT. The statements of 42_cmac.md: doubling, the tag by its blocks, and the command. -/

namespace Sys2Proof.Machine

/-- Settles O33: the shift as a number, the branch of `dbl` as the comparison with 2^127, and the constant as an
exclusive-or in the last byte. -/
theorem doublingAsANumber : Obligations.DoublingAsANumber := by
  intro x
  rw [dbl, topBit_eq_decide_blockInt, Nat.mul_comm]
  by_cases h : 2 ^ 127 ≤ blockInt x
  · rw [if_pos (decide_eq_true h), if_pos h, blockInt_xor_lastByte, blockInt_shiftLeftOne]
    rfl
  · rw [if_neg (by rwa [decide_eq_true_eq]), if_neg h, blockInt_shiftLeftOne, Nat.xor_zero]

/-- Settles O34: both messages have `bs` before their last block, and only the first is whole blocks; the
padding is the one block of its bytes. -/
theorem cmacChainsItsBlocks : Obligations.CmacChainsItsBlocks := by
  intro k bs
  refine ⟨fun b => ?_, fun rest p hlt hnil hp => ?_⟩
  · rw [cmacTag_flatMap_append k bs b.toList (headCount_whole bs b), isComplete_whole, if_pos rfl, ofList_toList]
    rfl
  · rw [cmacTag_flatMap_append k bs rest (headCount_rest hlt hnil), isComplete_rest hlt hnil,
      if_neg Bool.false_ne_true, padBlock, ← hp, ofList_toList]
    rfl

/-- Settles O21: the completion after the store of the tag, which over a written message is the tag of that
message. -/
theorem cmacCompletes : Obligations.CmacCompletes := by
  intro s m hm
  have htag : s.tagOf [] = cmacTag s.key m := tagOf_of_hasMessage hm []
  rw [← htag]
  rfl

end Sys2Proof.Machine
end

section
/-! SUPPORT. The statements of 43_mic.md: the bytes of B0 and Ai by position, and the command MIC_DATA. -/

namespace Sys2Proof.Machine

/-! ## The frame block: the layout of B0 and Ai (R133, R142) -/

theorem extractLsb'_fcnt16_low (s : State) {i : Nat} (h : i + 8 ≤ 16) :
    s.fcnt16.extractLsb' i 8 = s.fcnt.extractLsb' i 8 := by
  ext j hj
  have hlow : i + j < 16 := by omega
  have hword : i + j < 32 := by omega
  simp [State.fcnt16, hlow, hword]

theorem extractLsb'_fcnt16_high (s : State) {i : Nat} (h : 16 ≤ i) : s.fcnt16.extractLsb' i 8 = 0x00 := by
  ext j hj
  have hhigh : ¬ i + j < 16 := by omega
  simp [State.fcnt16, hhigh]

/-- Of FCNT only the low half reaches a frame block (R39, R82). -/
theorem le32_fcnt16 (s : State) :
    le32 s.fcnt16 = ⟨s.fcnt.extractLsb' 0 8, s.fcnt.extractLsb' 8 8, 0x00, 0x00⟩ := by
  rw [le32, Quad.ofWord, extractLsb'_fcnt16_low s (i := 0) (by decide), extractLsb'_fcnt16_low s (i := 8) (by decide),
    extractLsb'_fcnt16_high s (i := 16) (by decide), extractLsb'_fcnt16_high s (i := 24) (by decide)]

theorem frameBlock_eq (s : State) (first last : Byte) :
    s.frameBlock first last = [first, 0x00, 0x00, 0x00, 0x00, if s.dir then 0x01 else 0x00,
      s.devaddr.extractLsb' 0 8, s.devaddr.extractLsb' 8 8, s.devaddr.extractLsb' 16 8,
      s.devaddr.extractLsb' 24 8, s.fcnt.extractLsb' 0 8, s.fcnt.extractLsb' 8 8, 0x00, 0x00,
      0x00, last] := by
  rw [State.frameBlock, le32_fcnt16]
  rfl

/-! ## The statements -/

/-- Settles O35: both blocks are the shared layout. -/
theorem frameBlocksByPosition : Obligations.FrameBlocksByPosition :=
  fun s i => ⟨frameBlock_eq s 0x49 s.b0len, frameBlock_eq s 0x01 (BitVec.ofNat 8 i)⟩

/-- Settles O22: the completion after the store of the tag, which over a written message is the tag of B0 and
that message. -/
theorem micDataCompletes : Obligations.MicDataCompletes := by
  intro s m hm
  have htag : s.tagOf s.b0 = cmacTag s.key (s.b0 ++ m) := tagOf_of_hasMessage hm s.b0
  refine ⟨s.tagOf s.b0, ?_, rfl⟩
  rw [htag, State.b0, frameBlock_eq]

end Sys2Proof.Machine
end

section
/-! SUPPORT. The rules the statements of 44_payload_cipher.md rest on: the keystream and the ciphered message
byte by byte, what CTR_XOR does to every read of MBUF, and that the ciphering undoes itself. -/

namespace Sys2Proof.Machine

/-! ## The keystream by position (R144) -/

/-- The byte of the keystream that message byte `k` takes: block `⌊k/16⌋ + 1`, byte `k mod 16` (R144, R145). -/
def State.keystreamByte (s : State) (k : Nat) : Byte := (s.keystreamBlock (k / 16 + 1)).toList.getD (k % 16) 0

theorem length_keystreamFrom (s : State) (i count : Nat) : (s.keystreamFrom i count).length = 16 * count := by
  induction count generalizing i with
  | zero => rfl
  | succ count ih => rw [State.keystreamFrom, List.length_append, length_toList, ih]; omega

theorem getElem?_keystreamFrom (s : State) {i count j : Nat} (hj : j < 16 * count) :
    (s.keystreamFrom i count)[j]? = some ((s.keystreamBlock (i + j / 16)).toList.getD (j % 16) 0) := by
  induction count generalizing i j with
  | zero => omega
  | succ count ih =>
    rw [State.keystreamFrom]
    by_cases hfirst : j < 16
    · have hlt : j < (s.keystreamBlock i).toList.length := hfirst
      rw [List.getElem?_append_left hlt, Nat.div_eq_of_lt hfirst, Nat.mod_eq_of_lt hfirst, Nat.add_zero,
        List.getElem?_eq_getElem hlt, List.getD_eq_getElem _ _ hlt]
    · rw [List.getElem?_append_right (by rw [length_toList]; omega), length_toList, ih (by omega),
        show i + 1 + (j - 16) / 16 = i + j / 16 by omega, show (j - 16) % 16 = j % 16 by omega]

/-- The keystream of a message of `n` bytes covers each of them (R141). -/
theorem getElem?_keystreamFrom_one (s : State) {n k : Nat} (hk : k < n) :
    (s.keystreamFrom 1 (blockCount n))[k]? = some (s.keystreamByte k) := by
  rw [getElem?_keystreamFrom s (by rw [blockCount]; omega), Nat.add_comm]
  rfl

/-! ## The ciphered message by position (R145) -/

@[simp] theorem length_xorKeystream (s : State) (p : List Byte) : (s.xorKeystream p).length = p.length := by
  rw [State.xorKeystream, List.length_zipWith, length_keystreamFrom, blockCount]
  omega

theorem getElem?_xorKeystream (s : State) (p : List Byte) (k : Nat) :
    (s.xorKeystream p)[k]? = p[k]?.map (· ^^^ s.keystreamByte k) := by
  by_cases hk : k < p.length
  · rw [State.xorKeystream, List.getElem?_zipWith_eq_some.mpr
      ⟨p[k], s.keystreamByte k, List.getElem?_eq_getElem hk, getElem?_keystreamFrom_one s hk, rfl⟩,
      List.getElem?_eq_getElem hk, Option.map_some]
  · rw [List.getElem?_eq_none (by rw [length_xorKeystream]; omega), List.getElem?_eq_none (by omega),
      Option.map_none]

/-- A byte takes the same keystream byte twice, which cancels (R147). -/
theorem xorKeystream_xorKeystream (s : State) (p : List Byte) : s.xorKeystream (s.xorKeystream p) = p := by
  apply List.ext_getElem?
  intro k
  rw [getElem?_xorKeystream, getElem?_xorKeystream, Option.map_map]
  have hcancel : ((· ^^^ s.keystreamByte k) ∘ (· ^^^ s.keystreamByte k) : Byte → Byte) = id := by
    funext b
    simp
  rw [hcancel, Option.map_id_apply]

theorem xorKeystream_congr {s t : State} (hkey : t.key = s.key) (hdir : t.dir = s.dir)
    (hdev : t.devaddr = s.devaddr) (hfcnt : t.fcnt.extractLsb' 0 16 = s.fcnt.extractLsb' 0 16)
    (p : List Byte) : t.xorKeystream p = s.xorKeystream p := by
  rw [State.xorKeystream, keystreamFrom_congr hkey hdir hdev hfcnt, State.xorKeystream]

/-! ## MBUF after CTR_XOR over a written message -/

theorem read_cipherMbuf {s : State} {m : List Byte} (h : s.hasMessage m) (k : Nat) :
    s.cipherMbuf.read k = if k < m.length then (s.xorKeystream m)[k]? else s.mbuf.read k := by
  simp only [cipherMbuf_of_hasMessage h, read_writeBytes, length_xorKeystream, Nat.zero_le, true_and, Nat.zero_add,
    Nat.sub_zero]

/-- Under the same LEN, the MBUF that CTR_XOR leaves holds the ciphered message. -/
theorem hasMessage_xorKeystream {s t : State} {m : List Byte} (h : s.hasMessage m) (hlen : t.len = s.len)
    (hmbuf : t.mbuf = s.cipherMbuf) : t.hasMessage (s.xorKeystream m) := by
  refine ⟨by rw [length_xorKeystream, hlen, h.1], fun k hk => ?_⟩
  rw [hmbuf, read_cipherMbuf h, if_pos (by rwa [length_xorKeystream] at hk)]

end Sys2Proof.Machine
end

section
/-! SUPPORT. The statements of 44_payload_cipher.md: the command CTR_XOR, and that it is its own inverse. -/

namespace Sys2Proof.Machine

/-- Settles O23: the completion after the store of the ciphered message, read byte by byte. -/
theorem ctrXorCompletes : Obligations.CtrXorCompletes := by
  intro s m hm
  refine ⟨s.cipherMbuf, rfl, fun k hk => ?_, fun k hk => ?_⟩
  · rw [read_cipherMbuf hm, if_pos hk, getElem?_xorKeystream, List.getElem?_eq_getElem hk]
    rfl
  · rw [read_cipherMbuf hm, if_neg (by omega)]

/-- Settles O36: the second run ciphers the ciphered message with the same keystream, and neither run touches
a byte past it. -/
theorem ctrXorIsItsOwnInverse : Obligations.CtrXorIsItsOwnInverse := by
  intro s m hm
  refine ⟨_, rfl, fun t hkey hdir hdev hfcnt hlen hmbuf => ⟨_, rfl, fun k => ?_⟩⟩
  have hcipher : t.hasMessage (s.xorKeystream m) := hasMessage_xorKeystream hm hlen hmbuf
  have hback : t.xorKeystream (s.xorKeystream m) = m := by
    rw [xorKeystream_congr hkey hdir hdev hfcnt, xorKeystream_xorKeystream]
  rw [complete_mbuf, read_cipherMbuf hcipher, length_xorKeystream, hback]
  by_cases hk : k < m.length
  · rw [if_pos hk, hm.2 k hk]
  · rw [if_neg hk, hmbuf, complete_mbuf, read_cipherMbuf hm, if_neg hk]

end Sys2Proof.Machine
end

section
/-! SUPPORT. The rules the statements of 70_reset_and_hazards.md rest on: what a command makes of a message with
an unwritten byte, and that neither a completion nor a store makes a byte unwritten. -/

namespace Sys2Proof.Machine

/-! ## Results over an unwritten byte (R169) -/

theorem message_eq_none_of_unwritten {s : State} {k : Nat} (hk : k < s.len.toNat) (h : s.mbuf.read k = none) :
    s.message = none := by
  cases hm : s.message with
  | none => rfl
  | some m =>
    have hread := (slice_isSome s.mbuf s.msgLen).mp (by rw [← State.message, hm]; rfl) k hk
    rw [h] at hread
    cases hread

theorem tagOf_of_unwritten {s : State} (h : s.message = none) (p : List Byte) :
    s.tagOf p = Config.freeTag s.draws := by
  rw [State.tagOf, h]

theorem cipherMbuf_of_unwritten {s : State} (h : s.message = none) :
    s.cipherMbuf = scrambleBelow s.draws s.msgLen s.mbuf := by
  rw [State.cipherMbuf, h]

/-! ## Which bytes are written after a completion (R44, R169) -/

theorem hasMessage_of_message {s : State} {m : List Byte} (h : s.message = some m) : s.hasMessage m := by
  obtain ⟨hlen, hread⟩ := (slice_eq_some _ _ _).mp h
  exact ⟨hlen, fun k hk => hread k (hlen ▸ hk)⟩

theorem isSome_read_scrambleBelow (d n : Nat) (m : Memory) (k : Nat) :
    ((scrambleBelow d n m).read k).isSome = (m.read k).isSome := by
  rw [read_scrambleBelow]
  split
  · exact Option.isSome_map
  · rfl

/-- CTR_XOR makes no byte written and none unwritten, whether or not its message is written (log 3). -/
theorem isSome_read_cipherMbuf (s : State) (k : Nat) : (s.cipherMbuf.read k).isSome = (s.mbuf.read k).isSome := by
  cases hm : s.message with
  | none => rw [cipherMbuf_of_unwritten hm, isSome_read_scrambleBelow]
  | some m =>
    have hmsg : s.hasMessage m := hasMessage_of_message hm
    rw [read_cipherMbuf hmsg]
    split
    · rename_i hk
      rw [getElem?_xorKeystream, Option.isSome_map, hmsg.2 k hk]
    · rfl

theorem isSome_read_of_exec {i : Instr} {s t : State} (hx : exec i s = .next t) (k : Nat) :
    (t.mbuf.read k).isSome = (s.mbuf.read k).isSome := by
  cases i with
  | nop | aesEnc | aesDec | cmac | micData => cases hx; rfl
  | ctrXor => cases hx; exact isSome_read_cipherMbuf s k

/-! ## Which bytes are written after a store (R62, R169) -/

/-- A store leaves a byte of MBUF as it is, or is a store to the byte's word and the byte is written. -/
theorem read_storeReg_cases (s : State) (v : Word) (r : Reg) (k : Nat) :
    (s.storeReg v r).mbuf.read k = s.mbuf.read k ∨
    (∃ w : Fin 64, r = .mbuf w ∧ w.val = k / 4 ∧ (s.storeReg v r).mbuf.read k ≠ none) := by
  cases r with
  | mbuf w =>
    simp only [State.storeReg, read_writeBytes, show (Quad.ofWord v).toList.length = 4 from rfl]
    split
    · rename_i hk
      refine .inr ⟨w, rfl, by omega, ?_⟩
      rw [getElem?_toList_ofWord v (by omega)]
      exact Option.some_ne_none _
    · exact .inl rfl
  | cmd =>
    obtain ⟨b, d, e, c, hc⟩ := acceptCommand_frame s v
    rw [State.storeReg, hc]
    exact .inl rfl
  | _ => exact .inl rfl

end Sys2Proof.Machine
end

section
/-! SUPPORT. The statements of 70_reset_and_hazards.md: reset, and the unwritten bytes of MBUF. -/

namespace Sys2Proof.Machine

/-- Settles O40: the state after reset does not depend on the one before, beside the draw and the schedule. -/
theorem resetRestoresEveryComponent : Obligations.ResetRestoresEveryComponent := by
  intro s rest hi
  have hstep := step_of_isResetTurn (s := s) (by rw [State.isResetTurn, hi])
  exact ⟨_, hstep, rfl, rfl, rfl, rfl, rfl, rfl, rfl, rfl, rfl, rfl, rfl, rfl, rfl, rfl, rfl, fun _ => rfl, rfl, rfl⟩

/-- Settles O24: the message is not there, so the tag is the free one, and MBUF is scrambled below LEN. -/
theorem commandsOverUnwrittenBytesComplete : Obligations.CommandsOverUnwrittenBytesComplete := by
  intro s k hk hnone
  have hm : s.message = none := message_eq_none_of_unwritten hk hnone
  refine ⟨⟨Config.freeTag s.draws, ?_⟩, ⟨Config.freeTag s.draws, ?_⟩,
    ⟨scrambleBelow s.draws s.msgLen s.mbuf, ?_, isSome_read_scrambleBelow _ _ _, fun j hj => ?_⟩⟩
  · rw [← tagOf_of_unwritten hm []]
    rfl
  · rw [← tagOf_of_unwritten hm s.b0]
    rfl
  · rw [← cipherMbuf_of_unwritten hm]
    rfl
  · rw [read_scrambleBelow]
    exact if_neg (Nat.not_lt.mpr hj)

/-- Settles O45: of the ways a step can take, only a store to the byte's word and reset change whether it is
written. -/
theorem onlyAHostWriteMakesAByteWritten : Obligations.OnlyAHostWriteMakesAByteWritten := by
  intro s t k h
  cases taken_of_step h with
  | quiet | refuses => exact ⟨fun hs ht => absurd hs ht, fun hs ht => absurd ht hs⟩
  | completes i _ _ _ hx =>
    have hiff : t.mbuf.read k = none ↔ s.mbuf.read k = none := by
      rw [← Option.not_isSome_iff_eq_none, isSome_read_of_exec hx k, Option.not_isSome_iff_eq_none]
    exact ⟨fun hs ht => absurd (hiff.mpr hs) ht, fun hs ht => absurd (hiff.mp ht) hs⟩
  | stores r v hidle hw =>
    rcases read_storeReg_cases (s.acked s.inputs.tail) v r k with hsame | ⟨w, rfl, hword, hwritten⟩
    · exact ⟨fun hs ht => absurd (hsame.trans hs) ht, fun hs ht => absurd (hsame.symm.trans ht) hs⟩
    · exact ⟨fun _ _ => ⟨hidle rfl, w, v, hword, hw⟩, fun _ ht => absurd ht hwritten⟩
  | resets hturn => exact ⟨fun _ ht => absurd rfl ht, fun _ _ => hturn⟩

end Sys2Proof.Machine
end
